-- ==== Sys2Proof/Word.lean ====
section
/-! DEFINITION. The data widths of the block: a message element is 8 bits (R3, R6; `spec/00_scope.md`, R58). -/

namespace Sys2Proof

/-- A message element: "8-bit unsigned values" (R8). -/
abbrev Byte := BitVec 8

end Sys2Proof
end

