-- ==== Sys2Proof/Config.lean ====
section
/-! DEFINITION. What is fixed for a machine: the one open parameter of the spec and the shape of an engine's
hardwired constants. The constants' values stand in Sys2Proof/Machine/Ops.lean. No behaviour of this block leaves a
value free (`spec/93_implementation_defined.md` section 1: none is `any value`), so there is no opaque constant. -/

namespace Sys2Proof

/-- The open parameter of the spec (R7; `spec/92_eei_decisions.md`, "Open parameters").
`maxBytes`: the largest byte count START accepts; `none` is the spec's default, unbounded. Log 10. -/
structure Config where
  maxBytes : Option Nat
  deriving DecidableEq, Repr

/-- The parameters of one engine (R6, R17, R110). They are constants, not registers: no address, not written by reset. -/
structure Consts (w : Nat) where
  /-- The polynomial, its leading coefficient included (R53). -/
  poly : BitVec w
  /-- The test-bit mask, the leading bit of the register (R54). -/
  top : BitVec w
  /-- The register mask applied after the shift (R54). -/
  mask : BitVec w
  /-- The offset added in `byte_index` (R36). -/
  s : Nat
  /-- The fetch threshold (R18). -/
  k : Nat
  /-- The smallest message that does not fault (R6, R131). -/
  minBytes : Nat
  deriving DecidableEq, Repr

end Sys2Proof
end

