-- ==== Sys2Proof/Syntax.lean ====
section
/-! DEFINITION. The names of the two engines, the three decoding contexts and the twelve rows of the opcode table
(R50, R51, R52; `spec/opcode_table.json`). -/

namespace Sys2Proof

/-- The two engines (R1, R2). -/
inductive EngineId where
  | crc7
  | crc16
  deriving DecidableEq, Repr

/-- What a word is read as: the table's column "format" (R50). In the format `step` the word is the control word of
one engine (R52), so the context names the engine. -/
inductive Context where
  /-- The 1-bit command `op` presented by the host with START (R51). -/
  | op
  /-- The same bit, selecting the SEED that START performs (R50). -/
  | start
  /-- The 3-bit step control word of an engine (R52). -/
  | step (e : EngineId)
  deriving DecidableEq, Repr

/-- One constructor per row of the opcode table. No row has an operand field: the message is bound by START (R16, R51). -/
inductive Instr where
  /-- `CRC7`, R70, R144. -/
  | crc7
  /-- `CRC16`, R90, R144. -/
  | crc16
  /-- `CRC7.SEED`, R71. -/
  | crc7Seed
  /-- `CRC16.SEED`, R91. -/
  | crc16Seed
  /-- `CRC7.FETCH`, R72. -/
  | crc7Fetch
  /-- `CRC7.REDUCE`, R73. -/
  | crc7Reduce
  /-- `CRC7.STOP`, R74. -/
  | crc7Stop
  /-- `CRC7.SHIFT`, R75. -/
  | crc7Shift
  /-- `CRC16.FETCH`, R92. -/
  | crc16Fetch
  /-- `CRC16.REDUCE`, R93. -/
  | crc16Reduce
  /-- `CRC16.STOP`, R94. -/
  | crc16Stop
  /-- `CRC16.SHIFT`, R95. -/
  | crc16Shift
  deriving DecidableEq, Repr

/-- The context (format) of a row. -/
def Instr.context : Instr → Context
  | .crc7 => .op
  | .crc16 => .op
  | .crc7Seed => .start
  | .crc16Seed => .start
  | .crc7Fetch => .step .crc7
  | .crc7Reduce => .step .crc7
  | .crc7Stop => .step .crc7
  | .crc7Shift => .step .crc7
  | .crc16Fetch => .step .crc16
  | .crc16Reduce => .step .crc16
  | .crc16Stop => .step .crc16
  | .crc16Shift => .step .crc16

/-- The engine a row acts on (R2: it reads and writes nothing of the other). -/
def Instr.engine : Instr → EngineId
  | .crc7 => .crc7
  | .crc16 => .crc16
  | .crc7Seed => .crc7
  | .crc16Seed => .crc16
  | .crc7Fetch => .crc7
  | .crc7Reduce => .crc7
  | .crc7Stop => .crc7
  | .crc7Shift => .crc7
  | .crc16Fetch => .crc16
  | .crc16Reduce => .crc16
  | .crc16Stop => .crc16
  | .crc16Shift => .crc16

/-- The place of a row in its unit: sub-step a is 0, sub-step b is 1, sub-steps c and d (one or the other) are 2
(R52, R76, R155). A row of the formats `op` and `start` is a whole unit, place 2. -/
def Instr.place : Instr → Nat
  | .crc7 => 2
  | .crc16 => 2
  | .crc7Seed => 2
  | .crc16Seed => 2
  | .crc7Fetch => 0
  | .crc7Reduce => 1
  | .crc7Stop => 2
  | .crc7Shift => 2
  | .crc16Fetch => 0
  | .crc16Reduce => 1
  | .crc16Stop => 2
  | .crc16Shift => 2

end Sys2Proof
end

