-- ==== Sys2Proof/Machine/State.lean ====
section
/-! DEFINITION. The state of the block as plain data: the five elements of each engine (R10), the open parameter, and
the host's side of the interface (R143) as lists and values. Reset (R23, R150). -/

namespace Sys2Proof.Machine

/-- The phase of an engine (R15). -/
inductive Phase where
  /-- No operation has been started since reset. -/
  | idle
  /-- An operation is in progress. -/
  | run
  /-- The operation terminated; `R` holds the final remainder. -/
  | done
  /-- The operation was aborted by OutOfRange; there is no result. -/
  | fault
  deriving DecidableEq, Repr

/-- The message space of one engine (R30): (address, byte) pairs, addresses strictly rising (`Memory.wf` in Ops.lean).
An address that is not listed does not exist: reading it never yields a byte (R35; log 13). -/
abbrev Memory := List Host.Cell

/-- The complete state of one engine (R10), its register `w` bits wide (8 or 17, R11). -/
structure Engine (w : Nat) where
  /-- `E.R`, the remainder register. -/
  r : BitVec w
  /-- `E.I`, the bit counter (R14): unbounded, it counts bits. -/
  i : Nat
  /-- `E.PH`, the phase. -/
  ph : Phase
  /-- `E.N`, the byte count latched at START (R16). -/
  n : Nat
  /-- `E.MSG`, the message bound at START (R16), read-only. -/
  msg : Memory
  deriving DecidableEq, Repr

/-- An engine after reset (R23): `PH = IDLE`. The spec gives `R`, `I`, `N`, `MSG` no value; the values here are a
DESIGN CHOICE (logs 1, 2, 3), unsafe, and no read of them goes ungated: the engine reads them in RUN only (R142), the
host reads `R` in DONE only (R19). -/
def Engine.reset (w : Nat) : Engine w :=
  { r := 0#w, i := 0, ph := .idle, n := 0, msg := [] }

/-- `OutOfRange(k)` (R130, R133): `k` is the offending index, for diagnostics; no rule reads it. -/
structure OutOfRange where
  index : Nat
  deriving DecidableEq, Repr

/-- One entry of the inbox: which agent moves next, and with what (R141, R143; logs 6, 7). -/
inductive Event where
  /-- The host performs START: the command bit and the message (R51, R143, R144). -/
  | start (op : BitVec 1) (msg : List Byte)
  /-- The host reads `done` and `err` (R143). -/
  | poll (e : EngineId)
  /-- The host reads `crc` and `rem` (R143). -/
  | readResult (e : EngineId)
  /-- The host resets the block (R143, R150). -/
  | reset
  /-- It is an engine's turn: it takes one step (R5, R141). -/
  | turn (e : EngineId)
  deriving DecidableEq, Repr

/-- What the host got back from an interaction (R143, R19). -/
inductive Reply where
  /-- `E.done`, `E.err`. -/
  | status (e : EngineId) (done err : Bool)
  /-- `CRC7.crc`, `CRC7.rem`. -/
  | result7 (crc : BitVec 7) (rem : BitVec 8)
  /-- `CRC16.crc`, `CRC16.rem`. -/
  | result16 (crc : BitVec 16) (rem : BitVec 17)
  deriving DecidableEq, Repr

/-- The faults of the MODEL. The block's own exception, OutOfRange, is none of them: taking it is a next state (R134). -/
inductive Fault where
  /-- Raised by the host's reading of `crc` / `rem` of an engine that is not in DONE: they have no value there (R19,
  R23, R153). Safe: the hardware gives no number either. Log 4. -/
  | noValue (e : EngineId)
  deriving DecidableEq, Repr

/-- The actions to which the model gives no meaning. -/
inductive Refusal where
  /-- Raised by an arm of exec whose instruction has no meaning yet. Safe. No arm is left so. -/
  | notModelled (mnemonic : String)
  /-- Raised by START on an engine in RUN: "not admitted" (R145, D10). Safe. Log 18. -/
  | startWhileRunning (e : EngineId)
  /-- Raised by START with a message above `MAXBYTES`, where that is set (R7, D8). Safe. Log 10. -/
  | messageTooLong (e : EngineId)
  /-- Raised by a word that does not decode. Safe. It cannot occur: a command has one bit, a control word three
  (R51, R52, R58). Log 19. -/
  | illegalWord (c : Context) (w : Nat)
  deriving DecidableEq, Repr

/-- The whole state: the two engines (R10), the open parameter (R7), and the host's side (R143; log 7). -/
structure State where
  /-- The open parameter; no step writes it. -/
  cfg : Config
  /-- The CRC7 engine. -/
  crc7 : Engine 8
  /-- The CRC16 engine. -/
  crc16 : Engine 17
  /-- The message the host presents together with the command word (R51). -/
  operand : List Byte
  /-- What happens next, oldest first. -/
  inbox : List Event
  /-- What the host got back from its last interaction. -/
  reply : Option Reply
  deriving DecidableEq, Repr

/-- The block right after reset (R23, R150): both engines IDLE; nothing is asked of it yet. -/
def State.reset : State :=
  { cfg := { maxBytes := none }
    crc7 := Engine.reset 8
    crc16 := Engine.reset 17
    operand := []
    inbox := []
    reply := none }

end Sys2Proof.Machine
end

