-- ==== Sys2Proof/Machine/Ops.lean ====
section
/-! DEFINITION. The constants of the engines, the message memory, its one access primitive, taking the one exception,
and binding a message. -/

namespace Sys2Proof.Machine

/-- The hardwired constants of the CRC7 engine (R17, R53, R54). -/
def crc7Const : Consts 8 :=
  { poly := 0x89#8, top := 0x80#8, mask := 0xFF#8, s := 1, k := 8, minBytes := 1 }

/-- The hardwired constants of the CRC16 engine (R17, R53, R54). -/
def crc16Const : Consts 17 :=
  { poly := 0x11021#17, top := 0x10000#17, mask := 0x1FFFF#17, s := 2, k := 16, minBytes := 3 }

/-- The canonical form of a memory: addresses strictly rising. -/
def Memory.wf (m : Memory) : Bool :=
  decide ((m.map Prod.fst).Pairwise (· < ·))

/-- The byte at an address; an address that is not listed has none. -/
def Memory.read : Memory → Nat → Option Byte
  | [], _ => none
  | (a, b) :: rest, k => if k = a then some b else Memory.read rest k

/-- The memory that holds the bytes at consecutive addresses from `a` on. -/
def Memory.ofBytesFrom : Nat → List Byte → Memory
  | _, [] => []
  | a, b :: bs => (a, b) :: Memory.ofBytesFrom (a + 1) bs

/-- The memory of a message: byte `k` at address `k` (R30). -/
def Memory.ofBytes (bs : List Byte) : Memory :=
  Memory.ofBytesFrom 0 bs

/-- `MemRead(k, 1)` (R35): `MSG[k]` when `k < n`, else OutOfRange(k). An address below `n` that the memory does not
list raises too; no run reaches that (log 13). -/
def memRead {w : Nat} (e : Engine w) (k : Nat) : Except OutOfRange Byte :=
  if k < e.n then
    match e.msg.read k with
    | some b => .ok b
    | none => .error ⟨k⟩
  else .error ⟨k⟩

/-- `L = 8 * n`, the message length in bits (R7, R16). -/
abbrev Engine.bitLength {w : Nat} (e : Engine w) : Nat := 8 * e.n

/-- Taking the exception OutOfRange (R134): `PH <- FAULT`; no write of the interrupted micro-operation takes effect,
nothing is saved, control goes nowhere. `R` and `I` keep their old contents behind the gates (log 8). There is no
return from it (R135): only START and reset leave FAULT. -/
def takeOutOfRange {w : Nat} (e : Engine w) : Engine w :=
  { e with ph := .fault }

/-- START's binding of the message (R16, R144): `N` and `MSG`. -/
def bindMessage {w : Nat} (msg : List Byte) (e : Engine w) : Engine w :=
  { e with n := msg.length, msg := Memory.ofBytes msg }

/-- The open parameter admits a message of `n` bytes (R7, D8). -/
def admits (cfg : Config) (n : Nat) : Bool :=
  match cfg.maxBytes with
  | none => true
  | some m => decide (n ≤ m)

/-- The phase of an engine named by its id. -/
def State.phase (s : State) : EngineId → Phase
  | .crc7 => s.crc7.ph
  | .crc16 => s.crc16.ph

end Sys2Proof.Machine
end

