-- ==== Sys2Proof/Machine/Outputs.lean ====
section
/-! DEFINITION. The four outputs of an engine, functions of its state (R19, R56). "No value" is `none`: outside DONE
`crc` and `rem` are never a number. -/

namespace Sys2Proof.Machine

/-- `E.done`: 1 when `PH = DONE`. -/
def doneOut {w : Nat} (e : Engine w) : Bool := decide (e.ph = .done)

/-- `E.err`: 1 when `PH = FAULT` (R133). -/
def errOut {w : Nat} (e : Engine w) : Bool := decide (e.ph = .fault)

/-- `E.rem`: the raw register, in DONE only. -/
def remOut {w : Nat} (e : Engine w) : Option (BitVec w) := if e.ph = .done then some e.r else none

/-- `CRC7.crc = R[6:0]` in DONE (R77). -/
def crcOut7 (e : Engine 8) : Option (BitVec 7) := (remOut e).map (·.setWidth 7)

/-- `CRC16.crc = R[15:0]` in DONE (R97). -/
def crcOut16 (e : Engine 17) : Option (BitVec 16) := (remOut e).map (·.setWidth 16)

end Sys2Proof.Machine
end

