-- ==== Sys2Proof/WellFormed.lean ====
section
/-! DEFINITION. A UNIT is the list of rows that one word selects, in the order they are performed (R52: "several rows
match one `CW`, and the matching micro-operations are performed in the order a, b, c/d"). A row by itself has no
operand, so nothing about it can be ill-formed; a unit can. -/

namespace Sys2Proof

/-- Every row of the unit is of the context's format and engine (R50, R52). -/
def unitBelongs (c : Context) (u : List Instr) : Bool :=
  u.all fun i => i.context == c

/-- The places rise strictly: the order a, b, c/d, and no place twice (R155, and R52: STOP or SHIFT, not both). -/
def unitRising (u : List Instr) : Bool :=
  decide ((u.map Instr.place).Pairwise (· < ·))

/-- The unit ends with its place 2: an iteration ends in STOP or in SHIFT (R52, R76); a unit is never empty. -/
def unitComplete (u : List Instr) : Bool :=
  match u.getLast? with
  | some i => i.place == 2
  | none => false

/-- A unit is well-formed in a context when it passes the three checks. -/
def unitWf (c : Context) (u : List Instr) : Bool :=
  unitBelongs c u && unitRising u && unitComplete u

end Sys2Proof
end

