-- ==== Sys2Proof/Decode.lean ====
section
/-! DEFINITION. Decoding a word in its context to the unit it selects, and the encoder, both from one table: the twelve
rows of `spec/opcode_table.json` with their match and mask (R50, R51, R52). -/

namespace Sys2Proof

/-- One row of the opcode table: the word selects the row when it agrees with `value` on the bits of `mask`. -/
structure Row where
  instr : Instr
  mask : Nat
  value : Nat
  deriving DecidableEq, Repr

/-- The mask and match of each row, as the table gives them. -/
def rowOf : Instr → Row
  | .crc7 => ⟨.crc7, 0x1, 0x0⟩
  | .crc16 => ⟨.crc16, 0x1, 0x1⟩
  | .crc7Seed => ⟨.crc7Seed, 0x1, 0x0⟩
  | .crc16Seed => ⟨.crc16Seed, 0x1, 0x1⟩
  | .crc7Fetch => ⟨.crc7Fetch, 0x4, 0x4⟩
  | .crc7Reduce => ⟨.crc7Reduce, 0x2, 0x2⟩
  | .crc7Stop => ⟨.crc7Stop, 0x1, 0x1⟩
  | .crc7Shift => ⟨.crc7Shift, 0x1, 0x0⟩
  | .crc16Fetch => ⟨.crc16Fetch, 0x4, 0x4⟩
  | .crc16Reduce => ⟨.crc16Reduce, 0x2, 0x2⟩
  | .crc16Stop => ⟨.crc16Stop, 0x1, 0x1⟩
  | .crc16Shift => ⟨.crc16Shift, 0x1, 0x0⟩

/-- Every instruction, in the table's order; within one context this is the order a, b, c, d. -/
def allInstrs : List Instr :=
  [.crc7, .crc16, .crc7Seed, .crc16Seed,
   .crc7Fetch, .crc7Reduce, .crc7Stop, .crc7Shift,
   .crc16Fetch, .crc16Reduce, .crc16Stop, .crc16Shift]

/-- The number of bits of a word in a context: 1 for the command bit (R51), 3 for the control word (R52). -/
def wordBits : Context → Nat
  | .op => 1
  | .start => 1
  | .step _ => 3

/-- The word `w`, read in context `c`, selects the row of `i`. -/
def selects (c : Context) (w : Nat) (i : Instr) : Bool :=
  i.context == c && w &&& (rowOf i).mask == (rowOf i).value

/-- Why a word is no word of its context. No word of the right length is rejected (R52, R58). -/
inductive DecodeError where
  /-- The word has a bit set above the length of its format. -/
  | tooWide (c : Context) (w : Nat)
  deriving DecidableEq, Repr

/-- Decoding: total, in every context and for every word. -/
def decode (c : Context) (w : Nat) : Except DecodeError (List Instr) :=
  if w < 2 ^ wordBits c then .ok (allInstrs.filter (selects c w)) else .error (.tooWide c w)

/-- The word of a unit: the bits its rows demand to be 1; every other bit is 0. -/
def encode (u : List Instr) : Nat :=
  u.foldl (fun w i => w ||| (rowOf i).value) 0

/-- The instruction read from a table word alone, WITHOUT its context (log 11). The table gives the words 0 and 1 to
several rows (`CRC7`, `CRC7.SEED`, `CRC7.SHIFT`, ...). A word that fits the 1-bit command is read as the command; any other
as the control word of the CRC7 engine, answering the first row it selects; a control word with `F` and `T` both set
"cannot occur" (R52) and is answered by `none`, as is a word of more than three bits. -/
def decodeTableWord (_nbits w : Nat) : Option Instr :=
  match decode .op w with
  | .ok u => u.head?
  | .error _ =>
    match decode (.step .crc7) w with
    | .ok u => if w &&& 5 == 5 then none else u.head?
    | .error _ => none

end Sys2Proof
end

