-- ==== Sys2Proof/Machine/Operands.lean ====
section
/-! DEFINITION. The values an operation assembles from its inputs (R57): the address of the bit extraction (R36), the
bit itself, the two seeds (R55). And the spec's numbering of message bits (R31), used to state what they are. -/

namespace Sys2Proof.Machine

/-- `byte_index = floor((i - 1) / 8) + S` (R36). Used for `i >= 1` only: the guard stands in `condF` (R115). -/
def byteIndex (s i : Nat) : Nat := (i - 1) / 8 + s

/-- `bit_offset = (8 - ((i + 8) mod 8)) mod 8` (R36), a right-shift amount. -/
def bitOffset (i : Nat) : Nat := (8 - (i + 8) % 8) % 8

/-- `(byte >> offset) & 1` (R33, R36). -/
def bitOfByte (b : Byte) (offset : Nat) : BitVec 1 := (b >>> offset).setWidth 1

/-- The bit-extraction rule for iteration `i` (R36, R61). -/
def extractBit {w : Nat} (s : Nat) (e : Engine w) (i : Nat) : Except OutOfRange (BitVec 1) :=
  match memRead e (byteIndex s i) with
  | .ok b => .ok (bitOfByte b (bitOffset i))
  | .error x => .error x

/-- The CRC16 seed of three bytes: `(b0 << 9) | (b1 << 1) | ((b2 >> 7) & 1)` (R32, R55). -/
def seedWord16 (b0 b1 b2 : Byte) : BitVec 17 :=
  (b0.setWidth 17 <<< 9) ||| (b1.setWidth 17 <<< 1) ||| (bitOfByte b2 7).setWidth 17

/-- The CRC7 seed: the first byte (R55, R71). -/
def seedValue7 (e : Engine 8) : Except OutOfRange (BitVec 8) := memRead e 0

/-- The CRC16 seed: the reads of bytes 0, 1, 2 in that order (R91, R136), assembled (R55). -/
def seedValue16 (e : Engine 17) : Except OutOfRange (BitVec 17) :=
  match memRead e 0 with
  | .error x => .error x
  | .ok b0 =>
    match memRead e 1 with
    | .error x => .error x
    | .ok b1 =>
      match memRead e 2 with
      | .error x => .error x
      | .ok b2 => .ok (seedWord16 b0 b1 b2)

/-- `bitpos(p)`: bit `7 - (p mod 8)` of byte `floor(p / 8)` (R31). Meant for `p < 8n`. -/
def bitPos (msg : List Byte) (p : Nat) : Bool :=
  (msg.getD (p / 8) 0#8).getLsbD (7 - p % 8)

end Sys2Proof.Machine
end

