-- ==== Sys2Proof/Machine/Flags.lean ====
section
/-! DEFINITION. The three conditions of an iteration (R18). The block stores no flag. `F` and `T` are written without
subtraction, as R18 allows ("a model on natural numbers may write ..."). -/

namespace Sys2Proof.Machine

/-- `F`, fetch: `I != 0` and `I + K < L`. -/
def condF {w : Nat} (c : Consts w) (e : Engine w) : Bool :=
  decide (e.i ≠ 0) && decide (e.i + c.k < e.bitLength)

/-- `X`, xor: `(R & TOP) != 0`. -/
def condX {w : Nat} (c : Consts w) (e : Engine w) : Bool :=
  decide (e.r &&& c.top ≠ 0#w)

/-- `T`, terminate: `I + 1 >= L`. -/
def condT {w : Nat} (e : Engine w) : Bool :=
  decide (e.bitLength ≤ e.i + 1)

end Sys2Proof.Machine
end

