-- ==== Sys2Proof/Machine/SubSteps.lean ====
section
/-! DEFINITION. The micro-operations on one engine, written once over its constants (R111): both engine files and the
control word use them. The per-iteration ones act in RUN only ("An engine not in RUN does nothing and keeps its state",
R142; log 5) and only when the condition that enables them holds (R52). -/

namespace Sys2Proof.Machine

/-- SEED (R71, R91) with the seed value or the exception its reads gave: `R <- seed`, `I <- 0`, `PH <- RUN`. -/
def subSeed {w : Nat} (seed : Except OutOfRange (BitVec w)) (e : Engine w) : Engine w :=
  match seed with
  | .ok v => { e with r := v, i := 0, ph := .run }
  | .error _ => takeOutOfRange e

/-- Sub-step a, FETCH (R72, R92): when `F`, the look-ahead bit is ORed into `R[0]`, or OutOfRange is taken. -/
def subFetch {w : Nat} (c : Consts w) (e : Engine w) : Engine w :=
  if e.ph = .run ∧ condF c e = true then
    match extractBit c.s e e.i with
    | .ok b => { e with r := e.r ||| b.setWidth w }
    | .error _ => takeOutOfRange e
  else e

/-- Sub-step b, REDUCE (R73, R93): when `X`, the polynomial is subtracted. -/
def subReduce {w : Nat} (c : Consts w) (e : Engine w) : Engine w :=
  if e.ph = .run ∧ condX c e = true then { e with r := e.r ^^^ c.poly } else e

/-- Sub-step c, STOP (R74, R94): when `T`, the operation ends; `R` and `I` keep their values. -/
def subStop {w : Nat} (e : Engine w) : Engine w :=
  if e.ph = .run ∧ condT e = true then { e with ph := .done } else e

/-- Sub-step d, SHIFT (R75, R95): when not `T`, the register moves one place up, masked, and `I` counts. -/
def subShift {w : Nat} (c : Consts w) (e : Engine w) : Engine w :=
  if e.ph = .run ∧ condT e = false then { e with r := (e.r <<< 1) &&& c.mask, i := e.i + 1 } else e

/-- START on one engine (R144), its admission checked by the caller: bind the message, then SEED. -/
def startEngine {w : Nat} (seed : Engine w → Except OutOfRange (BitVec w)) (msg : List Byte) (e : Engine w) :
    Engine w :=
  subSeed (seed (bindMessage msg e)) (bindMessage msg e)

/-- The step control word `{F, X, T}` of the coming iteration (R52): `F` and `T` from `I` at entry, `X` from the register
after sub-step a (R18). Computed, never stored (D19). -/
def controlWord {w : Nat} (c : Consts w) (e : Engine w) : Nat :=
  4 * (condF c e).toNat + 2 * (condX c (subFetch c e)).toNat + (condT e).toNat

end Sys2Proof.Machine
end

