-- ==== Sys2Proof/Machine/Crc16.lean ====
section
/-! DEFINITION. The meanings of the CRC16 engine's six rows (`spec/41_crc16.md`). -/

namespace Sys2Proof.Machine

/-- `CRC16` (R90, R144), the command `op = 1`: START of the CRC16 engine with the presented message. Refused while the
engine is in RUN (R145) and above `MAXBYTES` (R7); otherwise the message is bound and SEED is performed, which ends in
RUN or in FAULT. The engine's own `8n` iterations then compute the result (R96, R160; log 15). -/
def execCrc16 (s : State) : Host.Outcome State Fault Refusal :=
  if s.crc16.ph = .run then .refused (.startWhileRunning .crc16)
  else if admits s.cfg s.operand.length then
    .next { s with crc16 := startEngine seedValue16 s.operand s.crc16 }
  else .refused (.messageTooLong .crc16)

/-- `CRC16.SEED` (R91). -/
def execCrc16Seed (s : State) : Host.Outcome State Fault Refusal :=
  .next { s with crc16 := subSeed (seedValue16 s.crc16) s.crc16 }

/-- `CRC16.FETCH` (R92). -/
def execCrc16Fetch (s : State) : Host.Outcome State Fault Refusal :=
  .next { s with crc16 := subFetch crc16Const s.crc16 }

/-- `CRC16.REDUCE` (R93). -/
def execCrc16Reduce (s : State) : Host.Outcome State Fault Refusal :=
  .next { s with crc16 := subReduce crc16Const s.crc16 }

/-- `CRC16.STOP` (R94). -/
def execCrc16Stop (s : State) : Host.Outcome State Fault Refusal :=
  .next { s with crc16 := subStop s.crc16 }

/-- `CRC16.SHIFT` (R95). -/
def execCrc16Shift (s : State) : Host.Outcome State Fault Refusal :=
  .next { s with crc16 := subShift crc16Const s.crc16 }

end Sys2Proof.Machine
end

