-- ==== Sys2Proof/Machine/Crc7.lean ====
section
/-! DEFINITION. The meanings of the CRC7 engine's six rows (`spec/40_crc7.md`). -/

namespace Sys2Proof.Machine

/-- `CRC7` (R70, R144), the command `op = 0`: START of the CRC7 engine with the presented message. Refused while the
engine is in RUN (R145) and above `MAXBYTES` (R7); otherwise the message is bound and SEED is performed, which ends in
RUN or in FAULT. The engine's own `8n` iterations then compute the result (R76, R160; log 15). -/
def execCrc7 (s : State) : Host.Outcome State Fault Refusal :=
  if s.crc7.ph = .run then .refused (.startWhileRunning .crc7)
  else if admits s.cfg s.operand.length then
    .next { s with crc7 := startEngine seedValue7 s.operand s.crc7 }
  else .refused (.messageTooLong .crc7)

/-- `CRC7.SEED` (R71). -/
def execCrc7Seed (s : State) : Host.Outcome State Fault Refusal :=
  .next { s with crc7 := subSeed (seedValue7 s.crc7) s.crc7 }

/-- `CRC7.FETCH` (R72). -/
def execCrc7Fetch (s : State) : Host.Outcome State Fault Refusal :=
  .next { s with crc7 := subFetch crc7Const s.crc7 }

/-- `CRC7.REDUCE` (R73). -/
def execCrc7Reduce (s : State) : Host.Outcome State Fault Refusal :=
  .next { s with crc7 := subReduce crc7Const s.crc7 }

/-- `CRC7.STOP` (R74). -/
def execCrc7Stop (s : State) : Host.Outcome State Fault Refusal :=
  .next { s with crc7 := subStop s.crc7 }

/-- `CRC7.SHIFT` (R75). -/
def execCrc7Shift (s : State) : Host.Outcome State Fault Refusal :=
  .next { s with crc7 := subShift crc7Const s.crc7 }

end Sys2Proof.Machine
end

