-- ==== Sys2Proof/Machine/Dispatch.lean ====
section
/-! DEFINITION. One arm per row of the opcode table, each one call of its meaning. -/

namespace Sys2Proof.Machine

def exec (i : Instr) (s : State) : Host.Outcome State Fault Refusal :=
  match i with
  | .crc7 => Sys2Proof.Machine.execCrc7 s
  | .crc16 => Sys2Proof.Machine.execCrc16 s
  | .crc7Seed => Sys2Proof.Machine.execCrc7Seed s
  | .crc16Seed => Sys2Proof.Machine.execCrc16Seed s
  | .crc7Fetch => Sys2Proof.Machine.execCrc7Fetch s
  | .crc7Reduce => Sys2Proof.Machine.execCrc7Reduce s
  | .crc7Stop => Sys2Proof.Machine.execCrc7Stop s
  | .crc7Shift => Sys2Proof.Machine.execCrc7Shift s
  | .crc16Fetch => Sys2Proof.Machine.execCrc16Fetch s
  | .crc16Reduce => Sys2Proof.Machine.execCrc16Reduce s
  | .crc16Stop => Sys2Proof.Machine.execCrc16Stop s
  | .crc16Shift => Sys2Proof.Machine.execCrc16Shift s

end Sys2Proof.Machine
end

