-- ==== Sys2Proof/Machine/Sequence.lean ====
section
/-! DEFINITION. Running the unit a word selects, and one iteration of an engine (R5, R76, R96): its control word is
computed from its state, decoded, and the rows it selects are performed in order, as one atomic step. -/

namespace Sys2Proof.Machine

/-- Perform the rows of a unit in order; a stop ends it. -/
def runUnit : List Instr → State → Host.Outcome State Fault Refusal
  | [], s => .next s
  | i :: rest, s =>
    match exec i s with
    | .next t => runUnit rest t
    | .fault x => .fault x
    | .refused x => .refused x

/-- Decode a word in its context and perform the unit it selects. -/
def runWord (c : Context) (w : Nat) (s : State) : Host.Outcome State Fault Refusal :=
  match decode c w with
  | .ok u => runUnit u s
  | .error _ => .refused (.illegalWord c w)

/-- The control word of an engine named by its id (R52). -/
def State.controlWord (s : State) : EngineId → Nat
  | .crc7 => Sys2Proof.Machine.controlWord crc7Const s.crc7
  | .crc16 => Sys2Proof.Machine.controlWord crc16Const s.crc16

/-- An engine takes its turn: one iteration in RUN; "An engine not in RUN does nothing and keeps its state" (R142). -/
def engineTurn (e : EngineId) (s : State) : Host.Outcome State Fault Refusal :=
  if s.phase e = .run then runWord (.step e) (s.controlWord e) s else .next s

/-- What happens when the inbox is empty (log 6): the CRC7 engine steps if it is in RUN, else the CRC16 engine if it is,
else nothing happens. Every running engine thus takes its steps (D14), and any other interleaving is written in the inbox. -/
def idleTurn (s : State) : Host.Outcome State Fault Refusal :=
  if s.phase .crc7 = .run then engineTurn .crc7 s else engineTurn .crc16 s

end Sys2Proof.Machine
end

