-- ==== Sys2Proof/Machine/HostActions.lean ====
section
/-! DEFINITION. The host interface (R143): START, poll, read result, reset, and the performing of one inbox entry. -/

namespace Sys2Proof.Machine

/-- The host presents a message with its command; it gets "nothing immediately" back (R143). -/
def presentOperand (msg : List Byte) (s : State) : State :=
  { s with operand := msg, reply := none }

/-- START as the host performs it (R51, R144): the message is presented and the command bit is decoded and run. -/
def hostStart (op : BitVec 1) (msg : List Byte) (s : State) : Host.Outcome State Fault Refusal :=
  runWord .op op.toNat (presentOperand msg s)

/-- Poll: the engine does nothing; the host gets `done` and `err` (R143). -/
def hostPoll (e : EngineId) (s : State) : State :=
  match e with
  | .crc7 => { s with reply := some (.status .crc7 (doneOut s.crc7) (errOut s.crc7)) }
  | .crc16 => { s with reply := some (.status .crc16 (doneOut s.crc16) (errOut s.crc16)) }

/-- Read result: `crc` and `rem` in DONE; they have no value in any other phase (R19, R153). -/
def hostReadResult (e : EngineId) (s : State) : Host.Outcome State Fault Refusal :=
  match e with
  | .crc7 =>
    match crcOut7 s.crc7, remOut s.crc7 with
    | some c, some r => .next { s with reply := some (.result7 c r) }
    | _, _ => .fault (.noValue .crc7)
  | .crc16 =>
    match crcOut16 s.crc16, remOut s.crc16 with
    | some c, some r => .next { s with reply := some (.result16 c r) }
    | _, _ => .fault (.noValue .crc16)

/-- Reset (R150): both engines take their reset state; the open parameter is not state of the block and stays; the
host's own pending interactions stay (log 16). -/
def hostReset (s : State) : State :=
  { s with crc7 := Engine.reset 8, crc16 := Engine.reset 17, reply := none }

/-- Perform one entry of the inbox. -/
def perform (ev : Event) (s : State) : Host.Outcome State Fault Refusal :=
  match ev with
  | .start op msg => hostStart op msg s
  | .poll e => .next (hostPoll e s)
  | .readResult e => hostReadResult e s
  | .reset => .next (hostReset s)
  | .turn e => engineTurn e s

/-- The message of `withFetchWord`: three zero bytes, an operand of zeros that both engines' SEED accepts (log 12). -/
def placedMessage : List Byte := [0#8, 0#8, 0#8]

/-- A CRC7 engine about to perform the iteration whose control word is `w` (log 12): in RUN on `placedMessage`, with `I`
chosen for `F` (bit 2) and `T` (bit 0) and the register for `X` (bit 1). With `F` and `T` both set there is no such
engine (R52); `F` is then obeyed. -/
def placedEngine (w : Nat) : Engine 8 :=
  { r := if w.testBit 1 then 0x80#8 else 0#8
    i := if w.testBit 2 then 1 else if w.testBit 0 then 23 else 16
    ph := .run
    n := placedMessage.length
    msg := Memory.ofBytes placedMessage }

/-- Place a table word so that the very next step runs it (log 12): a command bit as the host's START, any other word as
the coming iteration of the CRC7 engine. The order is that of `decodeTableWord`. -/
def placeWord (s : State) (w : Nat) : State :=
  if w < 2 then { s with inbox := .start (BitVec.ofNat 1 w) placedMessage :: s.inbox }
  else { s with crc7 := placedEngine w, inbox := .turn .crc7 :: s.inbox }

end Sys2Proof.Machine
end

