-- ==== Sys2Proof/Machine/Step.lean ====
section
/-! DEFINITION. One step of the block: the oldest entry of the inbox, or, when there is none, a running engine's turn
(R5, R141; log 6). -/

namespace Sys2Proof.Machine

/-- One step. -/
def step (s : State) : Host.Outcome State Fault Refusal :=
  match s.inbox with
  | ev :: rest => perform ev { s with inbox := rest }
  | [] => idleTurn s

/-- `s` with a table word placed so that the very next step runs it (log 12). -/
def State.withFetchWord (s : State) (_nbits w : Nat) : State :=
  placeWord s w

end Sys2Proof.Machine
end

