-- ==== Sys2Proof/Machine/Division.lean ====
section
/-! DEFINITION. What the spec compares an engine with: binary long division of a bit string (R82, R102, R113;
`spec/93_implementation_defined.md` section 2), the message's bits (R31), and the effective bit strings. No step uses
this file. -/

namespace Sys2Proof.Machine

/-- One step of long division: the next bit of the dividend comes in below, and the divisor is subtracted when the
leading bit is set. -/
def divideStep {w : Nat} (c : Consts w) (r : BitVec w) (b : Bool) : BitVec w :=
  let t := (r <<< 1) ||| (BitVec.ofBool b).setWidth w
  if t &&& c.top ≠ 0#w then t ^^^ c.poly else t

/-- The remainder of a dividend, given most significant bit first, by the polynomial of `c`. -/
def longDivide {w : Nat} (c : Consts w) (dividend : List Bool) : BitVec w :=
  dividend.foldl (divideStep c) 0#w

/-- The message "as a single long bitstring of length `8 * byte_count`" (R31). -/
def messageBits (msg : List Byte) : List Bool :=
  (List.range (8 * msg.length)).map (bitPos msg)

/-- The effective bit string of CRC7 (R82): for `n >= 2` the last message bit is replaced by 0. -/
def effectiveBits7 (msg : List Byte) : List Bool :=
  if 2 ≤ msg.length then (messageBits msg).dropLast ++ [false] else messageBits msg

/-- The effective bit string of CRC16 (R102): `b(0..16)` followed by `b(16..8n-2)`. -/
def effectiveBits16 (msg : List Byte) : List Bool :=
  (messageBits msg).take 17 ++ ((messageBits msg).drop 16).dropLast

end Sys2Proof.Machine
end

