-- ==== Sys2Proof/Machine/Function.lean ====
section
/-! DEFINITION. The function-level description of the two operations: the pseudocode of R70 and R90 written out with its
literals, the generic routine of R111, and what the source calls the result (R77, R97). The step-level machine does not
use this file; that the two levels agree (R5) is stated in the obligations. -/

namespace Sys2Proof.Machine

/-- `MemRead(k, 1)` on a message given as its bytes (R35). -/
def readByte (msg : List Byte) (k : Nat) : Except OutOfRange Byte :=
  match msg[k]? with
  | some b => .ok b
  | none => .error ⟨k⟩

/-- The loop of R70 from iteration `i` on, with `fuel` iterations left of "for i from 0 to L - 1". -/
def crc7Loop (msg : List Byte) : Nat → Nat → BitVec 8 → Except OutOfRange (BitVec 8)
  | 0, _, r => .ok r
  | fuel + 1, i, r =>
    let fetched : Except OutOfRange (BitVec 8) :=
      if i ≠ 0 ∧ i + 8 < 8 * msg.length then
        match readByte msg ((i - 1) / 8 + 1) with
        | .ok b => .ok (r ||| ((b >>> ((8 - (i + 8) % 8) % 8)) &&& 1#8))
        | .error x => .error x
      else .ok r
    match fetched with
    | .error x => .error x
    | .ok ra =>
      let rb := if ra &&& 0x80#8 ≠ 0#8 then ra ^^^ 0x89#8 else ra
      if 8 * msg.length ≤ i + 1 then .ok rb
      else crc7Loop msg fuel (i + 1) ((rb <<< 1) &&& 0xFF#8)

/-- `CRC7(MSG, n)` (R70): the raw remainder, or OutOfRange. -/
def crc7Function (msg : List Byte) : Except OutOfRange (BitVec 8) :=
  match readByte msg 0 with
  | .error x => .error x
  | .ok b => crc7Loop msg (8 * msg.length) 0 b

/-- The loop of R90 from iteration `i` on. -/
def crc16Loop (msg : List Byte) : Nat → Nat → BitVec 17 → Except OutOfRange (BitVec 17)
  | 0, _, r => .ok r
  | fuel + 1, i, r =>
    let fetched : Except OutOfRange (BitVec 17) :=
      if i ≠ 0 ∧ i + 16 < 8 * msg.length then
        match readByte msg ((i - 1) / 8 + 2) with
        | .ok b => .ok (r ||| ((b >>> ((8 - (i + 8) % 8) % 8)) &&& 1#8).setWidth 17)
        | .error x => .error x
      else .ok r
    match fetched with
    | .error x => .error x
    | .ok ra =>
      let rb := if ra &&& 0x10000#17 ≠ 0#17 then ra ^^^ 0x11021#17 else ra
      if 8 * msg.length ≤ i + 1 then .ok rb
      else crc16Loop msg fuel (i + 1) ((rb <<< 1) &&& 0x1FFFF#17)

/-- `CRC16(MSG, n)` (R90): the raw remainder, or OutOfRange. -/
def crc16Function (msg : List Byte) : Except OutOfRange (BitVec 17) :=
  match readByte msg 0 with
  | .error x => .error x
  | .ok b0 =>
    match readByte msg 1 with
    | .error x => .error x
    | .ok b1 =>
      match readByte msg 2 with
      | .error x => .error x
      | .ok b2 =>
        crc16Loop msg (8 * msg.length) 0
          ((b0.setWidth 17 <<< 9) ||| (b1.setWidth 17 <<< 1) ||| ((b2 >>> 7) &&& 1#8).setWidth 17)

/-- The loop of the generic routine (R111). -/
def genericLoop {w : Nat} (c : Consts w) (msg : List Byte) : Nat → Nat → BitVec w → Except OutOfRange (BitVec w)
  | 0, _, r => .ok r
  | fuel + 1, i, r =>
    let fetched : Except OutOfRange (BitVec w) :=
      if i ≠ 0 ∧ i + c.k < 8 * msg.length then
        match readByte msg (byteIndex c.s i) with
        | .ok b => .ok (r ||| (bitOfByte b (bitOffset i)).setWidth w)
        | .error x => .error x
      else .ok r
    match fetched with
    | .error x => .error x
    | .ok ra =>
      let rb := if ra &&& c.top ≠ 0#w then ra ^^^ c.poly else ra
      if 8 * msg.length ≤ i + 1 then .ok rb
      else genericLoop c msg fuel (i + 1) ((rb <<< 1) &&& c.mask)

/-- The generic seed (R111): the first `W` bits of the message, by the two layouts the spec gives. -/
def genericSeed7 (msg : List Byte) : Except OutOfRange (BitVec 8) := readByte msg 0

/-- The generic seed for `W = 17` (R111). -/
def genericSeed16 (msg : List Byte) : Except OutOfRange (BitVec 17) :=
  match readByte msg 0 with
  | .error x => .error x
  | .ok b0 =>
    match readByte msg 1 with
    | .error x => .error x
    | .ok b1 =>
      match readByte msg 2 with
      | .error x => .error x
      | .ok b2 => .ok (seedWord16 b0 b1 b2)

/-- The generic routine (R111) with its seed given. -/
def genericCrc {w : Nat} (c : Consts w) (seed : Except OutOfRange (BitVec w)) (msg : List Byte) :
    Except OutOfRange (BitVec w) :=
  match seed with
  | .error x => .error x
  | .ok r => genericLoop c msg (8 * msg.length) 0 r

end Sys2Proof.Machine
end

