-- ==== Sys2Proof/Safety.lean ====
section
/-! DEFINITION. What a good state is (the invariant that every step keeps), what a dutiful host asks (R143, R152), and
the names claims use. -/

namespace Sys2Proof.Machine

/-- The message of an engine is contiguous from address 0 and has `N` bytes (R16, R30, R41). -/
abbrev Engine.MessageBound {w : Nat} (e : Engine w) : Prop :=
  e.msg.map Prod.fst = List.range e.n

/-- The invariant of an engine: its memory is the canonical memory of an `N`-byte message; in RUN the message is long
enough (R131), `I` is below `8n` (R14) and `R[0] = 0` from iteration 1 on (R79, R99); in DONE the last iteration was
`8n - 1` (R74) and the guard bit is 0 (R80, R100); in FAULT the message was too short (R147). -/
abbrev Engine.Inv {w : Nat} (c : Consts w) (e : Engine w) : Prop :=
  e.msg.wf = true ∧ e.MessageBound ∧
  (e.ph = .run → c.minBytes ≤ e.n ∧ e.i < e.bitLength ∧ (e.i ≠ 0 → e.r.getLsbD 0 = false)) ∧
  (e.ph = .done → c.minBytes ≤ e.n ∧ e.i + 1 = e.bitLength ∧ e.r &&& c.top = 0#w) ∧
  (e.ph = .fault → e.n < c.minBytes)

/-- The invariant of the block: both engines' invariants. -/
abbrev State.Inv (s : State) : Prop :=
  s.crc7.Inv crc7Const ∧ s.crc16.Inv crc16Const

/-- The engine a command bit selects (R51). -/
def engineOfOp (op : BitVec 1) : EngineId :=
  if op = 0#1 then .crc7 else .crc16

/-- The next interaction keeps the host's duties: START only outside RUN (R145) and within `MAXBYTES` (R7), the result
read only in DONE (R143). -/
def State.dutiful (s : State) : Bool :=
  match s.inbox with
  | .start op msg :: _ => decide (s.phase (engineOfOp op) ≠ .run) && admits s.cfg msg.length
  | .readResult e :: _ => decide (s.phase e = .done)
  | _ => true

/-- The entry of the inbox neither starts an engine nor resets the block: it is a poll, a read or a turn. -/
def Event.quiet : Event → Bool
  | .start _ _ => false
  | .reset => false
  | .poll _ => true
  | .readResult _ => true
  | .turn _ => true

/-- The entry is a turn of an engine or a poll: it can never stop the machine (R142, R143). -/
def Event.turnOrPoll : Event → Bool
  | .start _ _ => false
  | .reset => false
  | .poll _ => true
  | .readResult _ => false
  | .turn _ => true

end Sys2Proof.Machine
end

