-- ==== Sys2Proof/Certificates/Slice0/Obligations.lean ====
section
/-! DEFINITION. The statements for the provers, each a Prop about the model, with the rule of the spec it formalises. -/

open Sys2Proof Sys2Proof.Machine

/-! ## Encoding -/

/-- Words written out from the spec's encodings (R51, R52 and the table): command bit 0 and 1, and four control words. -/
def Obligations.SpecWordsDecodeToTheirRows : Prop :=
  decode .op 0b0 = .ok [.crc7] ∧ decode .op 0b1 = .ok [.crc16] ∧
  decode .start 0b0 = .ok [.crc7Seed] ∧ decode .start 0b1 = .ok [.crc16Seed] ∧
  decode (.step .crc7) 0b110 = .ok [.crc7Fetch, .crc7Reduce, .crc7Shift] ∧
  decode (.step .crc7) 0b001 = .ok [.crc7Stop] ∧
  decode (.step .crc16) 0b011 = .ok [.crc16Reduce, .crc16Stop] ∧
  decode (.step .crc16) 0b100 = .ok [.crc16Fetch, .crc16Shift]

/-- Every well-formed unit comes back from its word: no bit of an encoding is dropped (R51, R52). -/
def Obligations.DecodeOfEncodeGivesTheUnitBack : Prop :=
  ∀ (c : Context) (u : List Instr), unitWf c u = true → encode u < 2 ^ wordBits c ∧ decode c (encode u) = .ok u

/-- Every word of its format's length decodes, to a well-formed unit whose word it is (no reserved encoding, R52, R58); a
longer word is rejected by name. -/
def Obligations.EveryWordOfItsLengthDecodes : Prop :=
  ∀ (c : Context) (w : Nat),
    (w < 2 ^ wordBits c → ∃ u, decode c w = .ok u ∧ unitWf c u = true ∧ encode u = w) ∧
    (2 ^ wordBits c ≤ w → decode c w = .error (.tooWide c w))

/-- R52: each bit of the control word independently selects its row, in the context of either engine: `F` FETCH, `X`
REDUCE, `T` STOP, not `T` SHIFT. -/
def Obligations.ControlWordBitsSelectTheirRows : Prop :=
  ∀ w : Nat, w < 8 →
    ∃ u7 u16, decode (.step .crc7) w = .ok u7 ∧ decode (.step .crc16) w = .ok u16 ∧
      (Instr.crc7Fetch ∈ u7 ↔ w.testBit 2 = true) ∧ (Instr.crc16Fetch ∈ u16 ↔ w.testBit 2 = true) ∧
      (Instr.crc7Reduce ∈ u7 ↔ w.testBit 1 = true) ∧ (Instr.crc16Reduce ∈ u16 ↔ w.testBit 1 = true) ∧
      (Instr.crc7Stop ∈ u7 ↔ w.testBit 0 = true) ∧ (Instr.crc16Stop ∈ u16 ↔ w.testBit 0 = true) ∧
      (Instr.crc7Shift ∈ u7 ↔ w.testBit 0 = false) ∧ (Instr.crc16Shift ∈ u16 ↔ w.testBit 0 = false)

/-! ## Constants, reset and outputs -/

/-- R17, R6, R53, R54: the hardwired constants, bit by bit. -/
def Obligations.HardwiredConstantsBitByBit : Prop :=
  (∀ k, crc7Const.poly.getLsbD k = decide (k = 7 ∨ k = 3 ∨ k = 0)) ∧
  (∀ k, crc16Const.poly.getLsbD k = decide (k = 16 ∨ k = 12 ∨ k = 5 ∨ k = 0)) ∧
  (∀ k, crc7Const.top.getLsbD k = decide (k = 7)) ∧
  (∀ k, crc16Const.top.getLsbD k = decide (k = 16)) ∧
  (∀ k, crc7Const.mask.getLsbD k = decide (k < 8)) ∧
  (∀ k, crc16Const.mask.getLsbD k = decide (k < 17)) ∧
  crc7Const.s = 1 ∧ crc7Const.k = 8 ∧ crc7Const.minBytes = 1 ∧
  crc16Const.s = 2 ∧ crc16Const.k = 16 ∧ crc16Const.minBytes = 3

/-- R23: after reset both engines are IDLE, `done` and `err` are 0, and `crc`, `rem` have no value. Of `R`, `I`, `N`, `MSG`
the spec gives no reset value; the model's (logs 1, 2, 3) are not claimed here. -/
def Obligations.ResetIsIdleAndPresentsNoResult : Prop :=
  (State.reset.crc7.ph = .idle ∧ doneOut State.reset.crc7 = false ∧ errOut State.reset.crc7 = false ∧
    crcOut7 State.reset.crc7 = none ∧ remOut State.reset.crc7 = none) ∧
  (State.reset.crc16.ph = .idle ∧ doneOut State.reset.crc16 = false ∧ errOut State.reset.crc16 = false ∧
    crcOut16 State.reset.crc16 = none ∧ remOut State.reset.crc16 = none)

/-- R150, R143: reset may be applied at any time; in whatever phase the engines are, RUN too, they become IDLE and present
no result. The open parameter and the rest of the inbox stay (log 16). -/
def Obligations.ResetAbandonsWhateverRuns : Prop :=
  ∀ (s : State) (rest : List Event), s.inbox = .reset :: rest →
    ∃ t, step s = .next t ∧ t.crc7.ph = .idle ∧ t.crc16.ph = .idle ∧
      doneOut t.crc7 = false ∧ errOut t.crc7 = false ∧ crcOut7 t.crc7 = none ∧ remOut t.crc7 = none ∧
      doneOut t.crc16 = false ∧ errOut t.crc16 = false ∧ crcOut16 t.crc16 = none ∧ remOut t.crc16 = none ∧
      t.cfg = s.cfg ∧ t.inbox = rest

/-- R19, R143: a poll gives the host `done` (PH = DONE) and `err` (PH = FAULT) and changes nothing of the block. -/
def Obligations.PollReportsDoneAndErr : Prop :=
  ∀ (s : State) (rest : List Event),
    (s.inbox = .poll .crc7 :: rest →
      step s = .next { s with inbox := rest,
                              reply := some (.status .crc7 (decide (s.crc7.ph = .done)) (decide (s.crc7.ph = .fault))) }) ∧
    (s.inbox = .poll .crc16 :: rest →
      step s = .next { s with inbox := rest,
                              reply := some (.status .crc16 (decide (s.crc16.ph = .done)) (decide (s.crc16.ph = .fault))) })

/-- R19, R153: in DONE the host reads `crc = R[DEG-1:0]` and `rem = R`; in every other phase the read has no value and the
model faults by name (a fault or a refusal, R19; log 4). -/
def Obligations.ResultIsReadInDoneOnly : Prop :=
  ∀ (s : State) (rest : List Event),
    (s.inbox = .readResult .crc7 :: rest →
      (s.crc7.ph = .done →
        step s = .next { s with inbox := rest,
                                reply := some (.result7 (BitVec.ofNat 7 (s.crc7.r.toNat % 128)) s.crc7.r) }) ∧
      (s.crc7.ph ≠ .done → step s = .fault (.noValue .crc7))) ∧
    (s.inbox = .readResult .crc16 :: rest →
      (s.crc16.ph = .done →
        step s = .next { s with inbox := rest,
                                reply := some (.result16 (BitVec.ofNat 16 (s.crc16.r.toNat % 65536)) s.crc16.r) }) ∧
      (s.crc16.ph ≠ .done → step s = .fault (.noValue .crc16)))

/-! ## The message memory -/

/-- R30, R35: the memory of a message has the addresses 0 .. n-1, reads byte `k` of the message at address `k`, and reads
nothing anywhere else. -/
def Obligations.MessageMemoryHoldsItsBytes : Prop :=
  ∀ msg : List Byte, (Memory.ofBytes msg).map Prod.fst = List.range msg.length ∧
    ∀ k, (Memory.ofBytes msg).read k = msg[k]?

/-- R35: `MemRead(k, 1)` of an engine that START has bound to a message. -/
def Obligations.MemReadReturnsTheByteOrRaises : Prop :=
  ∀ (w : Nat) (e : Engine w) (msg : List Byte) (k : Nat),
    (∀ h : k < msg.length, memRead (bindMessage msg e) k = .ok msg[k]) ∧
    (msg.length ≤ k → memRead (bindMessage msg e) k = .error ⟨k⟩)

/-- R36, R37, R115: for `i >= 1` the extraction address is the message bit position `i + 8S - 1`, the offset is `(-i) mod 8`
and lies in 0..7, and the bit extracted from a bound message is `bitpos(i + 8S - 1)`. -/
def Obligations.ExtractedBitIsTheLookAheadPosition : Prop :=
  ∀ (w : Nat) (e : Engine w) (msg : List Byte) (s i : Nat), 1 ≤ i →
    8 * byteIndex s i + (7 - bitOffset i) = i + 8 * s - 1 ∧ bitOffset i ≤ 7 ∧
    (bitOffset i : Int) = (-(i : Int)) % 8 ∧
    (i + 8 * s - 1 < 8 * msg.length →
      extractBit s (bindMessage msg e) i = .ok (BitVec.ofBool (bitPos msg (i + 8 * s - 1))))

/-- R32: the seeds, as formulas and in bit-string terms, `R[W-1-p] = bitpos(p)`. -/
def Obligations.SeedHoldsTheFirstMessageBits : Prop :=
  (∀ (e : Engine 8) (msg : List Byte) (b0 : Byte) (tl : List Byte), msg = b0 :: tl →
    seedValue7 (bindMessage msg e) = .ok b0 ∧ ∀ p, p < 8 → b0.getLsbD (7 - p) = bitPos msg p) ∧
  (∀ (e : Engine 17) (msg : List Byte) (b0 b1 b2 : Byte) (tl : List Byte), msg = b0 :: b1 :: b2 :: tl →
    ∃ r : BitVec 17, seedValue16 (bindMessage msg e) = .ok r ∧
      r.toNat = (b0.toNat <<< 9) ||| (b1.toNat <<< 1) ||| ((b2.toNat >>> 7) &&& 1) ∧
      ∀ p, p < 17 → r.getLsbD (16 - p) = bitPos msg p)

/-! ## The instructions: results and completion -/

/-- R70, R144, R71, R131: the command `CRC7` outside RUN. With a first byte the engine is seeded and runs; without one
OutOfRange is taken: FAULT, and neither `R` nor `I` is written. Everything else is unchanged. (That `N` and `MSG` are bound
in FAULT too is the model's, log 8; no rule reads them there.) -/
def Obligations.Crc7CommandBindsAndSeeds : Prop :=
  ∀ s : State, s.crc7.ph ≠ .run → admits s.cfg s.operand.length = true →
    (∀ b bs, s.operand = b :: bs →
      exec .crc7 s = .next { s with crc7 :=
        { r := b, i := 0, ph := .run, n := s.operand.length, msg := Memory.ofBytes s.operand } }) ∧
    (s.operand = [] →
      exec .crc7 s = .next { s with crc7 :=
        { r := s.crc7.r, i := s.crc7.i, ph := .fault, n := 0, msg := [] } })

/-- R90, R144, R91, R131: the command `CRC16` outside RUN. With three bytes the engine is seeded and runs; with fewer
OutOfRange is taken (log 8 as for CRC7). -/
def Obligations.Crc16CommandBindsAndSeeds : Prop :=
  ∀ s : State, s.crc16.ph ≠ .run → admits s.cfg s.operand.length = true →
    (∀ b0 b1 b2 bs, s.operand = b0 :: b1 :: b2 :: bs →
      exec .crc16 s = .next { s with crc16 :=
        { r := (b0.setWidth 17 <<< 9) ||| (b1.setWidth 17 <<< 1) ||| (b2 >>> 7).setWidth 17
          i := 0, ph := .run, n := s.operand.length, msg := Memory.ofBytes s.operand } }) ∧
    (s.operand.length ≤ 2 →
      exec .crc16 s = .next { s with crc16 :=
        { r := s.crc16.r, i := s.crc16.i, ph := .fault, n := s.operand.length
          msg := Memory.ofBytes s.operand } })

/-- R145, R7, R14, D8: where the two commands stop: on an engine in RUN, and above `MAXBYTES` where that is set. The field
that holds `MAXBYTES`, and that RUN is checked first when both apply, are the model's choice (log 10); so are the names of
the refusals (logs 10 and 18). -/
def Obligations.CommandsAreRefusedInRunAndAboveMaxBytes : Prop :=
  ∀ s : State,
    (s.crc7.ph = .run → exec .crc7 s = .refused (.startWhileRunning .crc7)) ∧
    (s.crc16.ph = .run → exec .crc16 s = .refused (.startWhileRunning .crc16)) ∧
    (∀ m, s.cfg.maxBytes = some m → m < s.operand.length →
      (s.crc7.ph ≠ .run → exec .crc7 s = .refused (.messageTooLong .crc7)) ∧
      (s.crc16.ph ≠ .run → exec .crc16 s = .refused (.messageTooLong .crc16)))

/-- R131, R146, R147: a command that is admitted ends in FAULT exactly when the message is below the minimum, and in RUN
exactly when it is not. -/
def Obligations.CommandsFaultExactlyOnShortMessages : Prop :=
  ∀ s t : State,
    (exec .crc7 s = .next t →
      (t.crc7.ph = .fault ↔ s.operand.length < 1) ∧ (t.crc7.ph = .run ↔ 1 ≤ s.operand.length)) ∧
    (exec .crc16 s = .next t →
      (t.crc16.ph = .fault ↔ s.operand.length < 3) ∧ (t.crc16.ph = .run ↔ 3 ≤ s.operand.length))

/-- R71, R134: `CRC7.SEED` on the bound message. The spec performs SEED inside START only: that the row executed by itself
acts so in every phase, RUN, DONE and FAULT too, is the model's choice (log 15), and so is the `N = 0` it meets in IDLE after
reset (log 3). -/
def Obligations.Crc7SeedResult : Prop :=
  ∀ s : State,
    (∀ b, 0 < s.crc7.n → s.crc7.msg.read 0 = some b →
      exec .crc7Seed s = .next { s with crc7 := { s.crc7 with r := b, i := 0, ph := .run } }) ∧
    (s.crc7.n = 0 → exec .crc7Seed s = .next { s with crc7 := { s.crc7 with ph := .fault } })

/-- R91, R134: `CRC16.SEED` on the bound message. The spec performs SEED inside START only: that the row executed by itself
acts so in every phase, RUN, DONE and FAULT too, is the model's choice (log 15), and so is the `N = 0` it meets in IDLE after
reset (log 3). -/
def Obligations.Crc16SeedResult : Prop :=
  ∀ s : State,
    (∀ b0 b1 b2, 2 < s.crc16.n → s.crc16.msg.read 0 = some b0 → s.crc16.msg.read 1 = some b1 →
      s.crc16.msg.read 2 = some b2 →
      exec .crc16Seed s = .next { s with crc16 := { s.crc16 with
        r := (b0.setWidth 17 <<< 9) ||| (b1.setWidth 17 <<< 1) ||| (b2 >>> 7).setWidth 17, i := 0, ph := .run } }) ∧
    (s.crc16.n ≤ 2 → exec .crc16Seed s = .next { s with crc16 := { s.crc16 with ph := .fault } })

/-- R72: `CRC7.FETCH` in RUN. When `F` holds, bit `(8 - ((I+8) mod 8)) mod 8` of byte `floor((I-1)/8) + 1` is ORed into
`R[0]`; when it does not, nothing is read and nothing changes. (The last clause, a byte below `n` that the memory does not
list, is the model's, log 13: no run reaches it.) -/
def Obligations.Crc7FetchResult : Prop :=
  ∀ s : State, s.crc7.ph = .run →
    (s.crc7.i ≠ 0 → s.crc7.i + 8 < 8 * s.crc7.n →
      (s.crc7.i - 1) / 8 + 1 < s.crc7.n ∧
      (∀ b, s.crc7.msg.read ((s.crc7.i - 1) / 8 + 1) = some b →
        exec .crc7Fetch s = .next { s with crc7 := { s.crc7 with
          r := s.crc7.r ||| (if b.getLsbD ((8 - (s.crc7.i + 8) % 8) % 8) = true then 1#8 else 0#8) } }) ∧
      (s.crc7.msg.read ((s.crc7.i - 1) / 8 + 1) = none →
        exec .crc7Fetch s = .next { s with crc7 := { s.crc7 with ph := .fault } })) ∧
    (s.crc7.i = 0 ∨ 8 * s.crc7.n ≤ s.crc7.i + 8 → exec .crc7Fetch s = .next s)

/-- R92: `CRC16.FETCH` in RUN, with `floor((I-1)/8) + 2` and the threshold 16 (log 13 as for CRC7). -/
def Obligations.Crc16FetchResult : Prop :=
  ∀ s : State, s.crc16.ph = .run →
    (s.crc16.i ≠ 0 → s.crc16.i + 16 < 8 * s.crc16.n →
      (s.crc16.i - 1) / 8 + 2 < s.crc16.n ∧
      (∀ b, s.crc16.msg.read ((s.crc16.i - 1) / 8 + 2) = some b →
        exec .crc16Fetch s = .next { s with crc16 := { s.crc16 with
          r := s.crc16.r ||| (if b.getLsbD ((8 - (s.crc16.i + 8) % 8) % 8) = true then 1#17 else 0#17) } }) ∧
      (s.crc16.msg.read ((s.crc16.i - 1) / 8 + 2) = none →
        exec .crc16Fetch s = .next { s with crc16 := { s.crc16 with ph := .fault } })) ∧
    (s.crc16.i = 0 ∨ 8 * s.crc16.n ≤ s.crc16.i + 16 → exec .crc16Fetch s = .next s)

/-- R73, R93: `REDUCE` in RUN: XOR with the polynomial when the leading bit is set, else nothing. -/
def Obligations.ReduceResult : Prop :=
  ∀ s : State,
    (s.crc7.ph = .run →
      (s.crc7.r.getLsbD 7 = true →
        exec .crc7Reduce s = .next { s with crc7 := { s.crc7 with r := s.crc7.r ^^^ 0x89#8 } }) ∧
      (s.crc7.r.getLsbD 7 = false → exec .crc7Reduce s = .next s)) ∧
    (s.crc16.ph = .run →
      (s.crc16.r.getLsbD 16 = true →
        exec .crc16Reduce s = .next { s with crc16 := { s.crc16 with r := s.crc16.r ^^^ 0x11021#17 } }) ∧
      (s.crc16.r.getLsbD 16 = false → exec .crc16Reduce s = .next s))

/-- R74, R94: `STOP` in RUN: DONE when `I >= L - 1`, `R` and `I` kept; else nothing. -/
def Obligations.StopResult : Prop :=
  ∀ s : State,
    (s.crc7.ph = .run →
      (8 * s.crc7.n ≤ s.crc7.i + 1 → exec .crc7Stop s = .next { s with crc7 := { s.crc7 with ph := .done } }) ∧
      (s.crc7.i + 1 < 8 * s.crc7.n → exec .crc7Stop s = .next s)) ∧
    (s.crc16.ph = .run →
      (8 * s.crc16.n ≤ s.crc16.i + 1 → exec .crc16Stop s = .next { s with crc16 := { s.crc16 with ph := .done } }) ∧
      (s.crc16.i + 1 < 8 * s.crc16.n → exec .crc16Stop s = .next s))

/-- R75, R95, R154: `SHIFT` in RUN: one place up, masked, `I` counts, when `T` does not hold; no shift when it does.
That a SHIFT row executed by itself while `T` holds does nothing is the model's reading (log 5): a step selects STOP then. -/
def Obligations.ShiftResult : Prop :=
  ∀ s : State,
    (s.crc7.ph = .run →
      (s.crc7.i + 1 < 8 * s.crc7.n →
        exec .crc7Shift s = .next { s with crc7 := { s.crc7 with
          r := BitVec.ofNat 8 ((s.crc7.r.toNat <<< 1) &&& 0xFF), i := s.crc7.i + 1 } }) ∧
      (8 * s.crc7.n ≤ s.crc7.i + 1 → exec .crc7Shift s = .next s)) ∧
    (s.crc16.ph = .run →
      (s.crc16.i + 1 < 8 * s.crc16.n →
        exec .crc16Shift s = .next { s with crc16 := { s.crc16 with
          r := BitVec.ofNat 17 ((s.crc16.r.toNat <<< 1) &&& 0x1FFFF), i := s.crc16.i + 1 } }) ∧
      (8 * s.crc16.n ≤ s.crc16.i + 1 → exec .crc16Shift s = .next s))

/-- R142, R76, R96: outside RUN the per-iteration micro-operations of an engine do nothing (the model's reading, log 5). -/
def Obligations.MicroOperationsOutsideRunDoNothing : Prop :=
  ∀ s : State,
    (s.crc7.ph ≠ .run → ∀ i ∈ [Instr.crc7Fetch, .crc7Reduce, .crc7Stop, .crc7Shift], exec i s = .next s) ∧
    (s.crc16.ph ≠ .run → ∀ i ∈ [Instr.crc16Fetch, .crc16Reduce, .crc16Stop, .crc16Shift], exec i s = .next s)

/-! ## Frames and independence -/

/-- The frame of the CRC7 rows: nothing of the CRC16 engine, the parameter or the host's side; `N` and every byte of the
message unless the row is the command; and of `R`, `I`, `PH` what the row does not write. The command stores the message
at addresses 0 .. n-1 and leaves no other byte. -/
def Obligations.Crc7RowsFrame : Prop :=
  ∀ (i : Instr) (s t : State), i.engine = .crc7 → exec i s = .next t →
    t.crc16 = s.crc16 ∧ t.cfg = s.cfg ∧ t.operand = s.operand ∧ t.inbox = s.inbox ∧ t.reply = s.reply ∧
    (i ≠ .crc7 → t.crc7.n = s.crc7.n ∧ ∀ a, t.crc7.msg.read a = s.crc7.msg.read a) ∧
    (i = .crc7 → ∀ a, t.crc7.msg.read a = s.operand[a]?) ∧
    (i = .crc7 ∨ i = .crc7Seed → t.crc7.ph = .fault → t.crc7.r = s.crc7.r ∧ t.crc7.i = s.crc7.i) ∧
    (i = .crc7Fetch → t.crc7.i = s.crc7.i ∧ (t.crc7.ph = s.crc7.ph ∨ t.crc7.ph = .fault) ∧
      ∀ k, k ≠ 0 → t.crc7.r.getLsbD k = s.crc7.r.getLsbD k) ∧
    (i = .crc7Reduce → t.crc7.i = s.crc7.i ∧ t.crc7.ph = s.crc7.ph) ∧
    (i = .crc7Stop → t.crc7.r = s.crc7.r ∧ t.crc7.i = s.crc7.i) ∧
    (i = .crc7Shift → t.crc7.ph = s.crc7.ph)

/-- The frame of the CRC16 rows, as for CRC7. -/
def Obligations.Crc16RowsFrame : Prop :=
  ∀ (i : Instr) (s t : State), i.engine = .crc16 → exec i s = .next t →
    t.crc7 = s.crc7 ∧ t.cfg = s.cfg ∧ t.operand = s.operand ∧ t.inbox = s.inbox ∧ t.reply = s.reply ∧
    (i ≠ .crc16 → t.crc16.n = s.crc16.n ∧ ∀ a, t.crc16.msg.read a = s.crc16.msg.read a) ∧
    (i = .crc16 → ∀ a, t.crc16.msg.read a = s.operand[a]?) ∧
    (i = .crc16 ∨ i = .crc16Seed → t.crc16.ph = .fault → t.crc16.r = s.crc16.r ∧ t.crc16.i = s.crc16.i) ∧
    (i = .crc16Fetch → t.crc16.i = s.crc16.i ∧ (t.crc16.ph = s.crc16.ph ∨ t.crc16.ph = .fault) ∧
      ∀ k, k ≠ 0 → t.crc16.r.getLsbD k = s.crc16.r.getLsbD k) ∧
    (i = .crc16Reduce → t.crc16.i = s.crc16.i ∧ t.crc16.ph = s.crc16.ph) ∧
    (i = .crc16Stop → t.crc16.r = s.crc16.r ∧ t.crc16.i = s.crc16.i) ∧
    (i = .crc16Shift → t.crc16.ph = s.crc16.ph)

/-- R2: an operation on one engine never reads or writes anything of the other: the other engine stays as it is, and two
states that agree on the engine, the presented message and the parameter give that engine the same outcome. -/
def Obligations.RowsTouchNothingOfTheOtherEngine : Prop :=
  ∀ (i : Instr) (s s' : State), s.cfg = s'.cfg → s.operand = s'.operand →
    (i.engine = .crc7 → s.crc7 = s'.crc7 →
      (∀ t, exec i s = .next t → t.crc16 = s.crc16 ∧ ∃ t', exec i s' = .next t' ∧ t'.crc7 = t.crc7) ∧
      (∀ x, exec i s = .refused x → exec i s' = .refused x)) ∧
    (i.engine = .crc16 → s.crc16 = s'.crc16 →
      (∀ t, exec i s = .next t → t.crc7 = s.crc7 ∧ ∃ t', exec i s' = .next t' ∧ t'.crc16 = t.crc16) ∧
      (∀ x, exec i s = .refused x → exec i s' = .refused x))

/-- R141: the turns of the two engines commute, from every state. -/
def Obligations.EngineTurnsCommute : Prop :=
  ∀ s : State, ∃ a b t,
    engineTurn .crc7 s = .next a ∧ engineTurn .crc16 a = .next t ∧
    engineTurn .crc16 s = .next b ∧ engineTurn .crc7 b = .next t

/-! ## The step -/

/-- A step runs the decoded command: the oldest entry of the inbox is a START whose command bit decodes to the row `i`, and
the step is `exec i` with the message presented, the entry taken and the reply cleared. -/
def Obligations.StepRunsTheDecodedCommand : Prop :=
  ∀ (s : State) (op : BitVec 1) (msg : List Byte) (rest : List Event), s.inbox = .start op msg :: rest →
    ∃ i, decode .op op.toNat = .ok [i] ∧ i = (if op = 0#1 then Instr.crc7 else Instr.crc16) ∧
      step s = exec i { s with inbox := rest, operand := msg, reply := none }

/-- A step of an engine in RUN runs the rows its control word decodes to, in order; a turn of an engine outside RUN only
takes the entry. With an empty inbox the CRC7 engine goes first (log 6). -/
def Obligations.StepRunsTheDecodedIteration : Prop :=
  ∀ (s : State),
    (∀ (e : EngineId) (rest : List Event), s.inbox = .turn e :: rest →
      (s.phase e = .run →
        ∃ u, decode (.step e) (s.controlWord e) = .ok u ∧ unitWf (.step e) u = true ∧
          step s = runUnit u { s with inbox := rest }) ∧
      (s.phase e ≠ .run → step s = .next { s with inbox := rest })) ∧
    (s.inbox = [] →
      (s.crc7.ph = .run → step s = engineTurn .crc7 s) ∧
      (s.crc7.ph ≠ .run → s.crc16.ph = .run → step s = engineTurn .crc16 s) ∧
      (s.crc7.ph ≠ .run → s.crc16.ph ≠ .run → step s = .next s))

/-- R18, R52: the three bits of the control word, in the integer form of R18; `X` is the leading bit of `R` at entry, since
FETCH "touches only bit 0" (R73). -/
def Obligations.ControlWordIsTheThreeConditions : Prop :=
  (∀ e : Engine 8,
    ((controlWord crc7Const e).testBit 2 = true ↔ e.i ≠ 0 ∧ (e.i : Int) < 8 * (e.n : Int) - 8) ∧
    ((controlWord crc7Const e).testBit 1 = true ↔ e.r.getLsbD 7 = true) ∧
    ((controlWord crc7Const e).testBit 0 = true ↔ (e.i : Int) ≥ 8 * (e.n : Int) - 1) ∧
    controlWord crc7Const e < 8) ∧
  (∀ e : Engine 17,
    ((controlWord crc16Const e).testBit 2 = true ↔ e.i ≠ 0 ∧ (e.i : Int) < 8 * (e.n : Int) - 16) ∧
    ((controlWord crc16Const e).testBit 1 = true ↔ e.r.getLsbD 16 = true) ∧
    ((controlWord crc16Const e).testBit 0 = true ↔ (e.i : Int) ≥ 8 * (e.n : Int) - 1) ∧
    controlWord crc16Const e < 8)

/-- R76: one iteration of the CRC7 engine, sub-steps a, b, c/d in that order, in one step. `ra` is the register after
sub-step a, `rb` after sub-step b. An engine outside RUN has no step. -/
def Obligations.Crc7IterationIsFetchReduceStopOrShift : Prop :=
  ∀ (s : State) (rest : List Event), s.inbox = .turn .crc7 :: rest →
    (s.crc7.ph ≠ .run → step s = .next { s with inbox := rest }) ∧
    (s.crc7.ph = .run → ∀ ra rb : BitVec 8,
      (s.crc7.i = 0 ∨ 8 * s.crc7.n ≤ s.crc7.i + 8 → ra = s.crc7.r) →
      (s.crc7.i ≠ 0 → s.crc7.i + 8 < 8 * s.crc7.n →
        ∃ b, s.crc7.msg.read ((s.crc7.i - 1) / 8 + 1) = some b ∧
          ra = s.crc7.r ||| (if b.getLsbD ((8 - (s.crc7.i + 8) % 8) % 8) = true then 1#8 else 0#8)) →
      rb = (if ra.getLsbD 7 = true then ra ^^^ 0x89#8 else ra) →
      (8 * s.crc7.n ≤ s.crc7.i + 1 →
        step s = .next { s with inbox := rest, crc7 := { s.crc7 with r := rb, ph := .done } }) ∧
      (s.crc7.i + 1 < 8 * s.crc7.n →
        step s = .next { s with inbox := rest, crc7 := { s.crc7 with r := rb <<< 1, i := s.crc7.i + 1 } }))

/-- R96: one iteration of the CRC16 engine, as for CRC7. -/
def Obligations.Crc16IterationIsFetchReduceStopOrShift : Prop :=
  ∀ (s : State) (rest : List Event), s.inbox = .turn .crc16 :: rest →
    (s.crc16.ph ≠ .run → step s = .next { s with inbox := rest }) ∧
    (s.crc16.ph = .run → ∀ ra rb : BitVec 17,
      (s.crc16.i = 0 ∨ 8 * s.crc16.n ≤ s.crc16.i + 16 → ra = s.crc16.r) →
      (s.crc16.i ≠ 0 → s.crc16.i + 16 < 8 * s.crc16.n →
        ∃ b, s.crc16.msg.read ((s.crc16.i - 1) / 8 + 2) = some b ∧
          ra = s.crc16.r ||| (if b.getLsbD ((8 - (s.crc16.i + 8) % 8) % 8) = true then 1#17 else 0#17)) →
      rb = (if ra.getLsbD 16 = true then ra ^^^ 0x11021#17 else ra) →
      (8 * s.crc16.n ≤ s.crc16.i + 1 →
        step s = .next { s with inbox := rest, crc16 := { s.crc16 with r := rb, ph := .done } }) ∧
      (s.crc16.i + 1 < 8 * s.crc16.n →
        step s = .next { s with inbox := rest, crc16 := { s.crc16 with r := rb <<< 1, i := s.crc16.i + 1 } }))

/-- R155: the XOR acts on the bit just fetched. In an iteration with `F` and `X`, the bit that leaves `R[0]` by the shift is
the fetched bit flipped. -/
def Obligations.ReduceFlipsTheFetchedBit : Prop :=
  ∀ (s : State) (rest : List Event) (b : BitVec 1), s.Inv →
    (s.inbox = .turn .crc7 :: rest → s.crc7.ph = .run → condF crc7Const s.crc7 = true → s.crc7.r.getLsbD 7 = true →
      extractBit 1 s.crc7 s.crc7.i = .ok b →
      ∃ t, step s = .next t ∧ t.crc7.r.getLsbD 1 = !b.getLsbD 0) ∧
    (s.inbox = .turn .crc16 :: rest → s.crc16.ph = .run → condF crc16Const s.crc16 = true →
      s.crc16.r.getLsbD 16 = true → extractBit 2 s.crc16 s.crc16.i = .ok b →
      ∃ t, step s = .next t ∧ t.crc16.r.getLsbD 1 = !b.getLsbD 0)

/-- R81: after sub-step b of any CRC7 iteration the guard bit is 0. -/
def Obligations.Crc7GuardBitIsClearAfterReduce : Prop :=
  ∀ s : State, s.crc7.ph = .run → ∃ t, exec .crc7Reduce s = .next t ∧ t.crc7.r.getLsbD 7 = false

/-- R101: after sub-step b of any CRC16 iteration the guard bit is 0. -/
def Obligations.Crc16GuardBitIsClearAfterReduce : Prop :=
  ∀ s : State, s.crc16.ph = .run → ∃ t, exec .crc16Reduce s = .next t ∧ t.crc16.r.getLsbD 16 = false

/-! ## Invariants and whole-machine rules -/

/-- The invariant holds after reset. -/
def Obligations.ResetMeetsTheInvariant : Prop := State.reset.Inv

/-- The invariant is kept by every step, from every state that meets it. -/
def Obligations.EveryStepKeepsTheInvariant : Prop :=
  ∀ s t : State, s.Inv → step s = .next t → t.Inv

/-- R132: FETCH cannot raise OutOfRange once SEED has succeeded: in every state that meets the invariant and runs, with `F`,
the index is in range and the engine goes on running. -/
def Obligations.FetchCannotFaultOnceSeeded : Prop :=
  ∀ s : State, s.Inv →
    (s.crc7.ph = .run → condF crc7Const s.crc7 = true →
      byteIndex 1 s.crc7.i < s.crc7.n ∧ ∃ t, exec .crc7Fetch s = .next t ∧ t.crc7.ph = .run) ∧
    (s.crc16.ph = .run → condF crc16Const s.crc16 = true →
      byteIndex 2 s.crc16.i < s.crc16.n ∧ ∃ t, exec .crc16Fetch s = .next t ∧ t.crc16.ph = .run)

/-- R80, R56: in DONE the CRC7 guard bit is 0, so `rem < 128` and `rem = crc`. -/
def Obligations.Crc7GuardBitIsClearAtDone : Prop :=
  ∀ s : State, s.Inv → s.crc7.ph = .done →
    s.crc7.r.getLsbD 7 = false ∧
    ∃ c r, crcOut7 s.crc7 = some c ∧ remOut s.crc7 = some r ∧ r.toNat < 128 ∧ r.toNat = c.toNat

/-- R100, R56: in DONE the CRC16 guard bit is 0, so `rem <= 0xFFFF` and `rem = crc`. -/
def Obligations.Crc16GuardBitIsClearAtDone : Prop :=
  ∀ s : State, s.Inv → s.crc16.ph = .done →
    s.crc16.r.getLsbD 16 = false ∧
    ∃ c r, crcOut16 s.crc16 = some c ∧ remOut s.crc16 = some r ∧ r.toNat ≤ 0xFFFF ∧ r.toNat = c.toNat

/-- R145, R143, R147, R7: from every state, a step answers a next state exactly when the host keeps its duties: no START
on a running engine or above `MAXBYTES`, no reading of a result outside DONE. No other stop exists. -/
def Obligations.StepStopsOnlyOnAnUndutifulHost : Prop :=
  ∀ s : State, (∃ t, step s = .next t) ↔ s.dutiful = true

/-- R15, R20, R135, R142: an engine outside RUN changes by its own START and by reset only: DONE keeps its result, FAULT
stays FAULT. -/
def Obligations.OutsideRunOnlyStartAndResetChangeAnEngine : Prop :=
  ∀ s t : State, step s = .next t →
    (s.crc7.ph ≠ .run → (∀ msg rest, s.inbox ≠ .start 0#1 msg :: rest) → (∀ rest, s.inbox ≠ .reset :: rest) →
      t.crc7 = s.crc7) ∧
    (s.crc16.ph ≠ .run → (∀ msg rest, s.inbox ≠ .start 1#1 msg :: rest) → (∀ rest, s.inbox ≠ .reset :: rest) →
      t.crc16 = s.crc16)

/-- R16, R38: no engine writes its message: `N` and every byte stay unless the step is a START of that engine or a reset. -/
def Obligations.MessagesAreNeverWrittenByAStep : Prop :=
  ∀ s t : State, step s = .next t → (∀ rest, s.inbox ≠ .reset :: rest) →
    ((∀ msg rest, s.inbox ≠ .start 0#1 msg :: rest) →
      t.crc7.n = s.crc7.n ∧ ∀ a, t.crc7.msg.read a = s.crc7.msg.read a) ∧
    ((∀ msg rest, s.inbox ≠ .start 1#1 msg :: rest) →
      t.crc16.n = s.crc16.n ∧ ∀ a, t.crc16.msg.read a = s.crc16.msg.read a)

/-- R151, R144, R22: START overwrites `N`, `MSG`, `R`, `I` and `PH` without reading them: from two states with the same
parameter, in both of which the started engine is outside RUN, the same START leads to the same phase, and to the very same
engine where it runs. -/
def Obligations.StartForgetsThePast : Prop :=
  ∀ (s s' : State) (op : BitVec 1) (msg : List Byte) (rest rest' : List Event),
    s.inbox = .start op msg :: rest → s'.inbox = .start op msg :: rest' → s.cfg = s'.cfg →
    s.phase (engineOfOp op) ≠ .run → s'.phase (engineOfOp op) ≠ .run → admits s.cfg msg.length = true →
    ∃ t t', step s = .next t ∧ step s' = .next t' ∧
      t.phase (engineOfOp op) = t'.phase (engineOfOp op) ∧
      (op = 0#1 → t.crc7.ph = .run → t.crc7 = t'.crc7) ∧
      (op = 1#1 → t.crc16.ph = .run → t.crc16 = t'.crc16)

/-! ## Whole operations -/

/-- R78, R98: FETCH runs in exactly `max(0, 8n - 9)` (CRC7) and `8n - 17` (CRC16) of the `8n` iterations, those with
`1 <= I <= 8n - 9` and `1 <= I <= 8n - 17`. -/
def Obligations.NumberOfFetches : Prop :=
  (∀ e : Engine 8, 1 ≤ e.n →
    ((List.range (8 * e.n)).filter fun i => condF crc7Const { e with i := i }).length = 8 * e.n - 9 ∧
    ∀ i, condF crc7Const { e with i := i } = true ↔ 1 ≤ i ∧ i + 9 ≤ 8 * e.n) ∧
  (∀ e : Engine 17, 3 ≤ e.n →
    ((List.range (8 * e.n)).filter fun i => condF crc16Const { e with i := i }).length = 8 * e.n - 17 ∧
    ∀ i, condF crc16Const { e with i := i } = true ↔ 1 ≤ i ∧ i + 17 ≤ 8 * e.n)

/-- R14, R78, R98, R160: after START and `k < 8n` turns the engine still runs, at `I = k`. -/
def Obligations.EngineStillRunsBeforeEightNTurns : Prop :=
  ∀ (s : State) (msg : List Byte) (k : Nat) (rest : List Event),
    admits s.cfg msg.length = true → k < 8 * msg.length →
    (s.inbox = .start 0#1 msg :: (List.replicate k (.turn .crc7) ++ rest) → s.crc7.ph ≠ .run → 1 ≤ msg.length →
      ∃ t : State, Host.Core.run Sys2Proof.core (k + 1) s = .next t ∧ t.crc7.ph = .run ∧ t.crc7.i = k ∧ t.inbox = rest) ∧
    (s.inbox = .start 1#1 msg :: (List.replicate k (.turn .crc16) ++ rest) → s.crc16.ph ≠ .run → 3 ≤ msg.length →
      ∃ t : State, Host.Core.run Sys2Proof.core (k + 1) s = .next t ∧ t.crc16.ph = .run ∧ t.crc16.i = k ∧ t.inbox = rest)

/-- R70, R76, R77, R144, R147, R160: START with a message of `n >= 1` bytes and `8n` turns of the CRC7 engine end in DONE with
the remainder of the function-level pseudocode of R70; the CRC16 engine is untouched. -/
def Obligations.Crc7OperationComputesItsFunction : Prop :=
  ∀ (s : State) (msg : List Byte) (rest : List Event),
    s.inbox = .start 0#1 msg :: (List.replicate (8 * msg.length) (.turn .crc7) ++ rest) →
    s.crc7.ph ≠ .run → admits s.cfg msg.length = true → 1 ≤ msg.length →
    ∃ (r : BitVec 8) (t : State), crc7Function msg = .ok r ∧
      Host.Core.run Sys2Proof.core (8 * msg.length + 1) s = .next t ∧
      t.crc7.ph = .done ∧ t.crc7.r = r ∧ t.crc7.i + 1 = 8 * msg.length ∧
      crcOut7 t.crc7 = some (r.setWidth 7) ∧ remOut t.crc7 = some r ∧ t.crc16 = s.crc16 ∧ t.inbox = rest

/-- R90, R96, R97, R144, R147, R160: the same for the CRC16 engine, `n >= 3`. -/
def Obligations.Crc16OperationComputesItsFunction : Prop :=
  ∀ (s : State) (msg : List Byte) (rest : List Event),
    s.inbox = .start 1#1 msg :: (List.replicate (8 * msg.length) (.turn .crc16) ++ rest) →
    s.crc16.ph ≠ .run → admits s.cfg msg.length = true → 3 ≤ msg.length →
    ∃ (r : BitVec 17) (t : State), crc16Function msg = .ok r ∧
      Host.Core.run Sys2Proof.core (8 * msg.length + 1) s = .next t ∧
      t.crc16.ph = .done ∧ t.crc16.r = r ∧ t.crc16.i + 1 = 8 * msg.length ∧
      crcOut16 t.crc16 = some (r.setWidth 16) ∧ remOut t.crc16 = some r ∧ t.crc7 = s.crc7 ∧ t.inbox = rest

/-- R141: any interleaving gives an engine the result it would give alone: after START, whatever turns of either engine and
whatever polls follow, once `8n` turns of the engine are among them it is DONE with its function's remainder. The other
engine may be in any state. -/
def Obligations.AnyInterleavingGivesTheSameResult : Prop :=
  ∀ (s : State) (msg : List Byte) (evs rest : List Event),
    admits s.cfg msg.length = true → (∀ ev ∈ evs, ev.turnOrPoll = true) →
    (s.inbox = .start 0#1 msg :: (evs ++ rest) → s.crc7.ph ≠ .run → 1 ≤ msg.length →
      8 * msg.length ≤ evs.count (.turn .crc7) →
      ∃ (r : BitVec 8) (t : State), crc7Function msg = .ok r ∧
        Host.Core.run Sys2Proof.core (evs.length + 1) s = .next t ∧ t.crc7.ph = .done ∧ t.crc7.r = r) ∧
    (s.inbox = .start 1#1 msg :: (evs ++ rest) → s.crc16.ph ≠ .run → 3 ≤ msg.length →
      8 * msg.length ≤ evs.count (.turn .crc16) →
      ∃ (r : BitVec 17) (t : State), crc16Function msg = .ok r ∧
        Host.Core.run Sys2Proof.core (evs.length + 1) s = .next t ∧ t.crc16.ph = .done ∧ t.crc16.r = r)

/-- R116, R147, D14: with nothing asked of the block, running engines end by themselves, after exactly the iterations they
have left: no hang. (Which engine goes first is the model's, log 6.) -/
def Obligations.RunningEnginesReachDone : Prop :=
  ∀ s : State, s.Inv → s.inbox = [] → s.crc7.ph = .run → s.crc16.ph = .run →
    ∃ t : State, Host.Core.run Sys2Proof.core
        ((8 * s.crc7.n - s.crc7.i) + (8 * s.crc16.n - s.crc16.i)) s = .next t ∧
      t.crc7.ph = .done ∧ t.crc16.ph = .done

/-- R112: the two operations are the generic routine with their constants, the raising cases included. -/
def Obligations.OperationsAreInstancesOfTheGenericRoutine : Prop :=
  ∀ msg : List Byte,
    crc7Function msg = genericCrc { poly := 0x89#8, top := 0x80#8, mask := 0xFF#8, s := 1, k := 8, minBytes := 1 }
      (genericSeed7 msg) msg ∧
    crc16Function msg = genericCrc { poly := 0x11021#17, top := 0x10000#17, mask := 0x1FFFF#17, s := 2, k := 16, minBytes := 3 }
      (genericSeed16 msg) msg

/-- R131, R70, R90: the functions raise OutOfRange exactly on messages below the minimum. -/
def Obligations.FunctionsRaiseExactlyOnShortMessages : Prop :=
  ∀ msg : List Byte,
    ((∃ x, crc7Function msg = .error x) ↔ msg.length < 1) ∧
    ((∃ x, crc16Function msg = .error x) ↔ msg.length < 3)

/-- R82, R113: what the CRC7 engine computes: the long division of the effective bit string followed by 7 zeros. -/
def Obligations.Crc7DividesItsEffectiveString : Prop :=
  ∀ msg : List Byte, 1 ≤ msg.length →
    crc7Function msg = .ok (longDivide crc7Const (effectiveBits7 msg ++ List.replicate 7 false))

/-- R102, R113: what the CRC16 engine computes: the long division of `b(0..16) b(16..8n-2)` followed by 16 zeros. -/
def Obligations.Crc16DividesItsEffectiveString : Prop :=
  ∀ msg : List Byte, 3 ≤ msg.length →
    crc16Function msg = .ok (longDivide crc16Const (effectiveBits16 msg ++ List.replicate 16 false))

/-- R8, R53, R82, R102: the long division is the remainder of polynomials over GF(2), modulo `x^7 + x^3 + 1` and
`x^16 + x^12 + x^5 + 1`. A bit string is read most significant bit first, a register bit `k` is the coefficient of `x^k`. -/
def Obligations.LongDivisionIsPolynomialRemainder : Prop :=
  ∀ bits : List Bool,
    (∑ k ∈ Finset.range 8, (if (longDivide crc7Const bits).getLsbD k = true then (Polynomial.X : Polynomial (ZMod 2)) ^ k else 0)) =
      (bits.foldl (fun p b => p * Polynomial.X + (if b = true then 1 else 0)) (0 : Polynomial (ZMod 2))) %ₘ
        (Polynomial.X ^ 7 + Polynomial.X ^ 3 + 1) ∧
    (∑ k ∈ Finset.range 17, (if (longDivide crc16Const bits).getLsbD k = true then (Polynomial.X : Polynomial (ZMod 2)) ^ k else 0)) =
      (bits.foldl (fun p b => p * Polynomial.X + (if b = true then 1 else 0)) (0 : Polynomial (ZMod 2))) %ₘ
        (Polynomial.X ^ 16 + Polynomial.X ^ 12 + Polynomial.X ^ 5 + 1)

/-- R82, R102, R118, R157: bit 0 of the last byte has no influence on either result (CRC7 from two bytes on, CRC16 from three). -/
def Obligations.LastMessageBitIsIgnored : Prop :=
  ∀ (init : List Byte) (b b' : Byte), b >>> 1 = b' >>> 1 →
    (1 ≤ init.length → crc7Function (init ++ [b]) = crc7Function (init ++ [b'])) ∧
    (2 ≤ init.length → crc16Function (init ++ [b]) = crc16Function (init ++ [b']))

/-- R83, R103, R80, R100: the ranges of the results: the raw remainder is below 128, below 65536. -/
def Obligations.ResultsAreInRange : Prop :=
  ∀ msg : List Byte,
    (∀ r, crc7Function msg = .ok r → r.toNat ≤ 127) ∧ (∀ r, crc16Function msg = .ok r → r.toNat ≤ 65535)
end

