-- ==== Sys2Proof/Laws/Flags.lean ====
section
/-! SUPPORT. The conditions of an iteration as propositions: what a proof cites instead of unfolding a condition. -/

namespace Sys2Proof.Laws

open Sys2Proof.Machine

variable {w : Nat}

theorem condF_true_iff (c : Consts w) (e : Engine w) : condF c e = true ↔ e.i ≠ 0 ∧ e.i + c.k < 8 * e.n := by
  simp [condF, Engine.bitLength]

theorem condF_false_iff (c : Consts w) (e : Engine w) : condF c e = false ↔ e.i = 0 ∨ 8 * e.n ≤ e.i + c.k := by
  rw [← Bool.not_eq_true, condF_true_iff]; omega

theorem condT_true_iff (e : Engine w) : condT e = true ↔ 8 * e.n ≤ e.i + 1 := by
  simp [condT, Engine.bitLength]

theorem condT_false_iff (e : Engine w) : condT e = false ↔ e.i + 1 < 8 * e.n := by
  rw [← Bool.not_eq_true, condT_true_iff]; omega

/-- `X` of the CRC7 engine is bit 7 (R18: "i.e. `R[W-1] = 1`"). -/
theorem condX_crc7 (e : Engine 8) : condX crc7Const e = e.r.getLsbD 7 := by
  unfold condX
  rw [show crc7Const.top = BitVec.twoPow 8 7 from rfl, BitVec.and_twoPow]
  cases e.r.getLsbD 7 <;> rfl

/-- `X` of the CRC16 engine is bit 16. -/
theorem condX_crc16 (e : Engine 17) : condX crc16Const e = e.r.getLsbD 16 := by
  unfold condX
  rw [show crc16Const.top = BitVec.twoPow 17 16 from rfl, BitVec.and_twoPow]
  cases e.r.getLsbD 16 <;> rfl

end Sys2Proof.Laws
end

