-- ==== Sys2Proof/Laws/Memory.lean ====
section
/-! SUPPORT. The canonical form of a memory: the one operation that makes a memory (binding a message, R16) gives it, no
operation writes a memory (R38), and the memory of reset has it. -/

namespace Sys2Proof.Laws

open Sys2Proof.Machine

theorem ofBytesFrom_keys (bs : List Byte) :
    ∀ a, (Memory.ofBytesFrom a bs).map Prod.fst = List.range' a bs.length := by
  induction bs with
  | nil => intro a; rfl
  | cons b bs ih => intro a; simp [Memory.ofBytesFrom, ih, List.range'_succ]

/-- Binding a message gives a memory in the canonical form. -/
theorem ofBytes_wf (bs : List Byte) : (Memory.ofBytes bs).wf = true := by
  simp [Memory.wf, Memory.ofBytes, ofBytesFrom_keys, List.pairwise_lt_range']

theorem bindMessage_wf {w : Nat} (bs : List Byte) (e : Engine w) : (bindMessage bs e).msg.wf = true :=
  ofBytes_wf bs

theorem reset_memories_wf :
    State.reset.crc7.msg.wf = true ∧ State.reset.crc16.msg.wf = true := by decide

end Sys2Proof.Laws
end

