-- ==== Sys2Proof/Laws/PerInstr.lean ====
section
/-! SUPPORT. The family RowEncoding: for every instruction, its table row is its own, its match lies in its mask and in its
format's length, and its match, decoded in its context, selects it in a well-formed unit. -/

namespace Sys2Proof.Laws.RowEncoding

def Statement (i : Instr) : Prop :=
  (rowOf i).instr = i ∧ (rowOf i).value &&& (rowOf i).mask = (rowOf i).value ∧
  (rowOf i).mask < 2 ^ wordBits i.context ∧
  ∃ u, decode i.context (rowOf i).value = .ok u ∧ i ∈ u ∧ unitWf i.context u = true

theorem crc7 : Statement .crc7 := ⟨rfl, rfl, by decide, [.crc7], rfl, by decide, by decide⟩
theorem crc16 : Statement .crc16 := ⟨rfl, rfl, by decide, [.crc16], rfl, by decide, by decide⟩
theorem crc7Seed : Statement .crc7Seed := ⟨rfl, rfl, by decide, [.crc7Seed], rfl, by decide, by decide⟩
theorem crc16Seed : Statement .crc16Seed := ⟨rfl, rfl, by decide, [.crc16Seed], rfl, by decide, by decide⟩
theorem crc7Fetch : Statement .crc7Fetch :=
  ⟨rfl, rfl, by decide, [.crc7Fetch, .crc7Shift], rfl, by decide, by decide⟩
theorem crc7Reduce : Statement .crc7Reduce :=
  ⟨rfl, rfl, by decide, [.crc7Reduce, .crc7Shift], rfl, by decide, by decide⟩
theorem crc7Stop : Statement .crc7Stop := ⟨rfl, rfl, by decide, [.crc7Stop], rfl, by decide, by decide⟩
theorem crc7Shift : Statement .crc7Shift := ⟨rfl, rfl, by decide, [.crc7Shift], rfl, by decide, by decide⟩
theorem crc16Fetch : Statement .crc16Fetch :=
  ⟨rfl, rfl, by decide, [.crc16Fetch, .crc16Shift], rfl, by decide, by decide⟩
theorem crc16Reduce : Statement .crc16Reduce :=
  ⟨rfl, rfl, by decide, [.crc16Reduce, .crc16Shift], rfl, by decide, by decide⟩
theorem crc16Stop : Statement .crc16Stop := ⟨rfl, rfl, by decide, [.crc16Stop], rfl, by decide, by decide⟩
theorem crc16Shift : Statement .crc16Shift := ⟨rfl, rfl, by decide, [.crc16Shift], rfl, by decide, by decide⟩

end Sys2Proof.Laws.RowEncoding
end

