-- ==== Sys2Proof/Laws/State.lean ====
section
/-! SUPPORT. One lemma per field per named update, true by rfl, so that no later proof unfolds a record update. -/

namespace Sys2Proof.Laws

open Sys2Proof.Machine

section EngineUpdates

variable {w : Nat} (msg : List Byte) (e : Engine w)

@[simp] theorem bindMessage_r : (bindMessage msg e).r = e.r := rfl
@[simp] theorem bindMessage_i : (bindMessage msg e).i = e.i := rfl
@[simp] theorem bindMessage_ph : (bindMessage msg e).ph = e.ph := rfl
@[simp] theorem bindMessage_n : (bindMessage msg e).n = msg.length := rfl
@[simp] theorem bindMessage_msg : (bindMessage msg e).msg = Memory.ofBytes msg := rfl

@[simp] theorem takeOutOfRange_r : (takeOutOfRange e).r = e.r := rfl
@[simp] theorem takeOutOfRange_i : (takeOutOfRange e).i = e.i := rfl
@[simp] theorem takeOutOfRange_ph : (takeOutOfRange e).ph = .fault := rfl
@[simp] theorem takeOutOfRange_n : (takeOutOfRange e).n = e.n := rfl
@[simp] theorem takeOutOfRange_msg : (takeOutOfRange e).msg = e.msg := rfl

@[simp] theorem reset_ph : (Engine.reset w).ph = .idle := rfl
@[simp] theorem reset_n : (Engine.reset w).n = 0 := rfl
@[simp] theorem reset_msg : (Engine.reset w).msg = [] := rfl

end EngineUpdates

section StateUpdates

variable (msg : List Byte) (s : State)

@[simp] theorem presentOperand_cfg : (presentOperand msg s).cfg = s.cfg := rfl
@[simp] theorem presentOperand_crc7 : (presentOperand msg s).crc7 = s.crc7 := rfl
@[simp] theorem presentOperand_crc16 : (presentOperand msg s).crc16 = s.crc16 := rfl
@[simp] theorem presentOperand_operand : (presentOperand msg s).operand = msg := rfl
@[simp] theorem presentOperand_inbox : (presentOperand msg s).inbox = s.inbox := rfl
@[simp] theorem presentOperand_reply : (presentOperand msg s).reply = none := rfl

@[simp] theorem hostPoll_cfg (e : EngineId) : (hostPoll e s).cfg = s.cfg := by cases e <;> rfl
@[simp] theorem hostPoll_crc7 (e : EngineId) : (hostPoll e s).crc7 = s.crc7 := by cases e <;> rfl
@[simp] theorem hostPoll_crc16 (e : EngineId) : (hostPoll e s).crc16 = s.crc16 := by cases e <;> rfl
@[simp] theorem hostPoll_operand (e : EngineId) : (hostPoll e s).operand = s.operand := by cases e <;> rfl
@[simp] theorem hostPoll_inbox (e : EngineId) : (hostPoll e s).inbox = s.inbox := by cases e <;> rfl

@[simp] theorem hostReset_cfg : (hostReset s).cfg = s.cfg := rfl
@[simp] theorem hostReset_crc7 : (hostReset s).crc7 = Engine.reset 8 := rfl
@[simp] theorem hostReset_crc16 : (hostReset s).crc16 = Engine.reset 17 := rfl
@[simp] theorem hostReset_operand : (hostReset s).operand = s.operand := rfl
@[simp] theorem hostReset_inbox : (hostReset s).inbox = s.inbox := rfl
@[simp] theorem hostReset_reply : (hostReset s).reply = none := rfl

@[simp] theorem phase_crc7 : s.phase .crc7 = s.crc7.ph := rfl
@[simp] theorem phase_crc16 : s.phase .crc16 = s.crc16.ph := rfl
@[simp] theorem controlWord_crc7 : s.controlWord .crc7 = controlWord crc7Const s.crc7 := rfl
@[simp] theorem controlWord_crc16 : s.controlWord .crc16 = controlWord crc16Const s.crc16 := rfl

end StateUpdates

end Sys2Proof.Laws
end

