-- ==== Sys2Proof/Laws/SubSteps.lean ====
section
/-! SUPPORT. For each shared operation on an engine, one lemma that says once everything it can do, and the fields it never
writes. -/

namespace Sys2Proof.Laws

open Sys2Proof.Machine

variable {w : Nat}

/-- SEED either seeds and runs, or takes OutOfRange. -/
theorem subSeed_cases (seed : Except OutOfRange (BitVec w)) (e : Engine w) :
    (∃ v, seed = .ok v ∧ subSeed seed e = { e with r := v, i := 0, ph := .run }) ∨
    (∃ x, seed = .error x ∧ subSeed seed e = takeOutOfRange e) := by
  cases seed with
  | ok v => exact .inl ⟨v, rfl, rfl⟩
  | error x => exact .inr ⟨x, rfl, rfl⟩

/-- FETCH does nothing outside RUN or without `F`; else it ORs one bit in, or takes OutOfRange. -/
theorem subFetch_cases (c : Consts w) (e : Engine w) :
    (¬(e.ph = .run ∧ condF c e = true) ∧ subFetch c e = e) ∨
    (e.ph = .run ∧ condF c e = true ∧
      ((∃ b, extractBit c.s e e.i = .ok b ∧ subFetch c e = { e with r := e.r ||| b.setWidth w }) ∨
       (∃ x, extractBit c.s e e.i = .error x ∧ subFetch c e = takeOutOfRange e))) := by
  by_cases h : e.ph = .run ∧ condF c e = true
  · refine .inr ⟨h.1, h.2, ?_⟩
    cases hb : extractBit c.s e e.i with
    | ok b => exact .inl ⟨b, rfl, by simp [subFetch, h, hb]⟩
    | error x => exact .inr ⟨x, rfl, by simp [subFetch, h, hb]⟩
  · exact .inl ⟨h, by simp only [subFetch, if_neg h]⟩

/-- REDUCE does nothing outside RUN or without `X`; else it subtracts the polynomial. -/
theorem subReduce_cases (c : Consts w) (e : Engine w) :
    (¬(e.ph = .run ∧ condX c e = true) ∧ subReduce c e = e) ∨
    (e.ph = .run ∧ condX c e = true ∧ subReduce c e = { e with r := e.r ^^^ c.poly }) := by
  by_cases h : e.ph = .run ∧ condX c e = true
  · exact .inr ⟨h.1, h.2, by simp only [subReduce, if_pos h]⟩
  · exact .inl ⟨h, by simp only [subReduce, if_neg h]⟩

/-- STOP does nothing outside RUN or without `T`; else it ends the operation. -/
theorem subStop_cases (e : Engine w) :
    (¬(e.ph = .run ∧ condT e = true) ∧ subStop e = e) ∨
    (e.ph = .run ∧ condT e = true ∧ subStop e = { e with ph := .done }) := by
  by_cases h : e.ph = .run ∧ condT e = true
  · exact .inr ⟨h.1, h.2, by simp only [subStop, if_pos h]⟩
  · exact .inl ⟨h, by simp only [subStop, if_neg h]⟩

/-- SHIFT does nothing outside RUN or with `T`; else it shifts, masks and counts. -/
theorem subShift_cases (c : Consts w) (e : Engine w) :
    (¬(e.ph = .run ∧ condT e = false) ∧ subShift c e = e) ∨
    (e.ph = .run ∧ condT e = false ∧
      subShift c e = { e with r := (e.r <<< 1) &&& c.mask, i := e.i + 1 }) := by
  by_cases h : e.ph = .run ∧ condT e = false
  · exact .inr ⟨h.1, h.2, by simp only [subShift, if_pos h]⟩
  · exact .inl ⟨h, by simp only [subShift, if_neg h]⟩

@[simp] theorem subSeed_n (seed : Except OutOfRange (BitVec w)) (e : Engine w) : (subSeed seed e).n = e.n := by
  rcases subSeed_cases seed e with ⟨_, _, h⟩ | ⟨_, _, h⟩ <;> simp [h]

@[simp] theorem subSeed_msg (seed : Except OutOfRange (BitVec w)) (e : Engine w) : (subSeed seed e).msg = e.msg := by
  rcases subSeed_cases seed e with ⟨_, _, h⟩ | ⟨_, _, h⟩ <;> simp [h]

@[simp] theorem subFetch_i (c : Consts w) (e : Engine w) : (subFetch c e).i = e.i := by
  rcases subFetch_cases c e with ⟨_, h⟩ | ⟨_, _, ⟨_, _, h⟩ | ⟨_, _, h⟩⟩ <;> simp [h]

@[simp] theorem subFetch_n (c : Consts w) (e : Engine w) : (subFetch c e).n = e.n := by
  rcases subFetch_cases c e with ⟨_, h⟩ | ⟨_, _, ⟨_, _, h⟩ | ⟨_, _, h⟩⟩ <;> simp [h]

@[simp] theorem subFetch_msg (c : Consts w) (e : Engine w) : (subFetch c e).msg = e.msg := by
  rcases subFetch_cases c e with ⟨_, h⟩ | ⟨_, _, ⟨_, _, h⟩ | ⟨_, _, h⟩⟩ <;> simp [h]

@[simp] theorem subReduce_i (c : Consts w) (e : Engine w) : (subReduce c e).i = e.i := by
  rcases subReduce_cases c e with ⟨_, h⟩ | ⟨_, _, h⟩ <;> simp [h]

@[simp] theorem subReduce_ph (c : Consts w) (e : Engine w) : (subReduce c e).ph = e.ph := by
  rcases subReduce_cases c e with ⟨_, h⟩ | ⟨_, _, h⟩ <;> simp [h]

@[simp] theorem subReduce_n (c : Consts w) (e : Engine w) : (subReduce c e).n = e.n := by
  rcases subReduce_cases c e with ⟨_, h⟩ | ⟨_, _, h⟩ <;> simp [h]

@[simp] theorem subReduce_msg (c : Consts w) (e : Engine w) : (subReduce c e).msg = e.msg := by
  rcases subReduce_cases c e with ⟨_, h⟩ | ⟨_, _, h⟩ <;> simp [h]

@[simp] theorem subStop_r (e : Engine w) : (subStop e).r = e.r := by
  rcases subStop_cases e with ⟨_, h⟩ | ⟨_, _, h⟩ <;> simp [h]

@[simp] theorem subStop_i (e : Engine w) : (subStop e).i = e.i := by
  rcases subStop_cases e with ⟨_, h⟩ | ⟨_, _, h⟩ <;> simp [h]

@[simp] theorem subStop_n (e : Engine w) : (subStop e).n = e.n := by
  rcases subStop_cases e with ⟨_, h⟩ | ⟨_, _, h⟩ <;> simp [h]

@[simp] theorem subStop_msg (e : Engine w) : (subStop e).msg = e.msg := by
  rcases subStop_cases e with ⟨_, h⟩ | ⟨_, _, h⟩ <;> simp [h]

@[simp] theorem subShift_ph (c : Consts w) (e : Engine w) : (subShift c e).ph = e.ph := by
  rcases subShift_cases c e with ⟨_, h⟩ | ⟨_, _, h⟩ <;> simp [h]

@[simp] theorem subShift_n (c : Consts w) (e : Engine w) : (subShift c e).n = e.n := by
  rcases subShift_cases c e with ⟨_, h⟩ | ⟨_, _, h⟩ <;> simp [h]

@[simp] theorem subShift_msg (c : Consts w) (e : Engine w) : (subShift c e).msg = e.msg := by
  rcases subShift_cases c e with ⟨_, h⟩ | ⟨_, _, h⟩ <;> simp [h]

end Sys2Proof.Laws
end

