-- ==== Sys2Proof/Laws/Step.lean ====
section
/-! SUPPORT. What a word, a unit and a step can do, once: the lemmas a proof about step cites instead of unfolding it. -/

namespace Sys2Proof.Laws

open Sys2Proof.Machine

@[simp] theorem runUnit_nil (s : State) : runUnit [] s = .next s := rfl

theorem runUnit_cons_next {i : Instr} {u : List Instr} {s t : State} (h : exec i s = .next t) :
    runUnit (i :: u) s = runUnit u t := by
  simp [runUnit, h]

theorem step_of_inbox {s : State} {ev : Event} {rest : List Event} (h : s.inbox = ev :: rest) :
    step s = perform ev { s with inbox := rest } := by
  simp [step, h]

theorem step_of_empty_inbox {s : State} (h : s.inbox = []) : step s = idleTurn s := by
  simp [step, h]

/-- A control word is below 8: it has its three bits (R52). -/
theorem controlWord_lt {w : Nat} (c : Consts w) (e : Engine w) : controlWord c e < 8 := by
  unfold controlWord
  have h : ∀ b : Bool, b.toNat ≤ 1 := by decide
  have hF := h (condF c e)
  have hX := h (condX c (subFetch c e))
  have hT := h (condT e)
  omega

/-- The sub-steps a control word selects (R52), in the order a, b, c/d. -/
def selectedSubSteps {n : Nat} (c : Consts n) (w : Nat) (e : Engine n) : Engine n :=
  let a := if w.testBit 2 then subFetch c e else e
  let b := if w.testBit 1 then subReduce c a else a
  if w.testBit 0 then subStop b else subShift c b

/-- The sub-steps a CRC7 control word selects, applied to the engine in order. -/
theorem runWord_crc7 (s : State) (w : Nat) (hw : w < 8) :
    runWord (.step .crc7) w s =
      .next { s with crc7 := selectedSubSteps crc7Const w s.crc7 } := by
  interval_cases w <;> rfl

/-- The sub-steps a CRC16 control word selects, applied to the engine in order. -/
theorem runWord_crc16 (s : State) (w : Nat) (hw : w < 8) :
    runWord (.step .crc16) w s =
      .next { s with crc16 := selectedSubSteps crc16Const w s.crc16 } := by
  interval_cases w <;> rfl

/-- The command bit runs exactly its row. -/
theorem hostStart_zero (msg : List Byte) (s : State) :
    hostStart 0#1 msg s = exec .crc7 (presentOperand msg s) := by
  show runWord .op 0 (presentOperand msg s) = _
  simp only [runWord, show decode .op 0 = .ok [.crc7] from rfl, runUnit]
  cases exec .crc7 (presentOperand msg s) <;> rfl

/-- The command bit runs exactly its row. -/
theorem hostStart_one (msg : List Byte) (s : State) :
    hostStart 1#1 msg s = exec .crc16 (presentOperand msg s) := by
  show runWord .op 1 (presentOperand msg s) = _
  simp only [runWord, show decode .op 1 = .ok [.crc16] from rfl, runUnit]
  cases exec .crc16 (presentOperand msg s) <;> rfl

/-- A turn of the CRC7 engine always answers a next state, which differs in that engine only. -/
theorem engineTurn_crc7 (s : State) :
    engineTurn .crc7 s = .next { s with crc7 :=
      if s.crc7.ph = .run then selectedSubSteps crc7Const (controlWord crc7Const s.crc7) s.crc7 else s.crc7 } := by
  by_cases h : s.crc7.ph = .run
  · simp [engineTurn, h, runWord_crc7 _ _ (controlWord_lt _ _)]
  · simp [engineTurn, h]

/-- A turn of the CRC16 engine always answers a next state, which differs in that engine only. -/
theorem engineTurn_crc16 (s : State) :
    engineTurn .crc16 s = .next { s with crc16 :=
      if s.crc16.ph = .run then selectedSubSteps crc16Const (controlWord crc16Const s.crc16) s.crc16 else s.crc16 } := by
  by_cases h : s.crc16.ph = .run
  · simp [engineTurn, h, runWord_crc16 _ _ (controlWord_lt _ _)]
  · simp [engineTurn, h]

/-- What the command CRC7 can do. -/
theorem exec_crc7_cases (s : State) :
    (s.crc7.ph = .run ∧ exec .crc7 s = .refused (.startWhileRunning .crc7)) ∨
    (s.crc7.ph ≠ .run ∧ admits s.cfg s.operand.length = false ∧ exec .crc7 s = .refused (.messageTooLong .crc7)) ∨
    (s.crc7.ph ≠ .run ∧ admits s.cfg s.operand.length = true ∧
      exec .crc7 s = .next { s with crc7 := startEngine seedValue7 s.operand s.crc7 }) := by
  by_cases h : s.crc7.ph = .run
  · exact .inl ⟨h, by simp [exec, execCrc7, h]⟩
  · cases ha : admits s.cfg s.operand.length with
    | false => exact .inr (.inl ⟨h, rfl, by simp [exec, execCrc7, h, ha]⟩)
    | true => exact .inr (.inr ⟨h, rfl, by simp [exec, execCrc7, h, ha]⟩)

/-- What the command CRC16 can do. -/
theorem exec_crc16_cases (s : State) :
    (s.crc16.ph = .run ∧ exec .crc16 s = .refused (.startWhileRunning .crc16)) ∨
    (s.crc16.ph ≠ .run ∧ admits s.cfg s.operand.length = false ∧ exec .crc16 s = .refused (.messageTooLong .crc16)) ∨
    (s.crc16.ph ≠ .run ∧ admits s.cfg s.operand.length = true ∧
      exec .crc16 s = .next { s with crc16 := startEngine seedValue16 s.operand s.crc16 }) := by
  by_cases h : s.crc16.ph = .run
  · exact .inl ⟨h, by simp [exec, execCrc16, h]⟩
  · cases ha : admits s.cfg s.operand.length with
    | false => exact .inr (.inl ⟨h, rfl, by simp [exec, execCrc16, h, ha]⟩)
    | true => exact .inr (.inr ⟨h, rfl, by simp [exec, execCrc16, h, ha]⟩)

/-- What one step can do, by the oldest entry of the inbox. -/
theorem step_cases (s : State) :
    (∃ op msg rest, s.inbox = .start op msg :: rest ∧ step s = hostStart op msg { s with inbox := rest }) ∨
    (∃ e rest, s.inbox = .poll e :: rest ∧ step s = .next (hostPoll e { s with inbox := rest })) ∨
    (∃ e rest, s.inbox = .readResult e :: rest ∧ step s = hostReadResult e { s with inbox := rest }) ∨
    (∃ rest, s.inbox = .reset :: rest ∧ step s = .next (hostReset { s with inbox := rest })) ∨
    (∃ e rest, s.inbox = .turn e :: rest ∧ step s = engineTurn e { s with inbox := rest }) ∨
    (s.inbox = [] ∧ step s = idleTurn s) := by
  rcases h : s.inbox with _ | ⟨ev, rest⟩
  · simp [step_of_empty_inbox h]
  · cases ev <;> simp [step_of_inbox h, perform]

end Sys2Proof.Laws
end

