-- ==== Sys2Proof/Tests/Slice0.lean ====
section
/-! SUPPORT. The model's own tests. Expected values come from the spec: `spec/opcode_table.json`, `spec/95_test_vectors.md`
(sections 1, 2 and 2.3, programs P1 to P6) and the examples of the rules. The witnesses at the end show that the
hypotheses of each obligation can be met. -/

namespace Sys2Proof.Tests

open Sys2Proof.Machine

/-! ## Helpers -/

/-- A state whose CRC7 engine is in the given situation on a message; all else as after reset. -/
def at7 (ph : Phase) (r : BitVec 8) (i : Nat) (msg : List Byte) : State :=
  { State.reset with crc7 := { r := r, i := i, ph := ph, n := msg.length, msg := Memory.ofBytes msg } }

/-- A state whose CRC16 engine is in the given situation on a message; all else as after reset. -/
def at16 (ph : Phase) (r : BitVec 17) (i : Nat) (msg : List Byte) : State :=
  { State.reset with crc16 := { r := r, i := i, ph := ph, n := msg.length, msg := Memory.ofBytes msg } }

/-- The state with these entries in the inbox. -/
def asks (evs : List Event) (s : State) : State := { s with inbox := evs }

/-- The next state of an outcome, if it is one. -/
def nextOf : Host.Outcome State Fault Refusal → Option State
  | .next t => some t
  | .fault _ => none
  | .refused _ => none

/-- `R`, `I`, `PH` of the CRC7 engine after an outcome. -/
def after7 (o : Host.Outcome State Fault Refusal) : Option (BitVec 8 × Nat × Phase) :=
  (nextOf o).map fun t => (t.crc7.r, t.crc7.i, t.crc7.ph)

/-- `R`, `I`, `PH` of the CRC16 engine after an outcome. -/
def after16 (o : Host.Outcome State Fault Refusal) : Option (BitVec 17 × Nat × Phase) :=
  (nextOf o).map fun t => (t.crc16.r, t.crc16.i, t.crc16.ph)

/-! ## Well-formed units: one ill-formed term for each check -/

theorem test_unit_of_the_other_engine_refused : unitBelongs (.step .crc7) [.crc7Fetch, .crc16Shift] = false := by decide
theorem test_unit_of_another_format_refused : unitBelongs .op [.crc7Seed] = false := by decide
theorem test_unit_out_of_order_refused : unitRising [.crc7Reduce, .crc7Fetch, .crc7Shift] = false := by decide
theorem test_unit_with_stop_and_shift_refused : unitRising [.crc16Stop, .crc16Shift] = false := by decide
theorem test_unit_without_end_refused : unitComplete [.crc7Fetch, .crc7Reduce] = false := by decide
theorem test_empty_unit_refused : unitWf (.step .crc16) [] = false := by decide

/-! ## Decoding: every row's word, written out from the table -/

theorem test_decode_crc7 : decode .op 0b0 = .ok [.crc7] := rfl
theorem test_decode_crc16 : decode .op 0b1 = .ok [.crc16] := rfl
theorem test_decode_crc7_seed : decode .start 0b0 = .ok [.crc7Seed] := rfl
theorem test_decode_crc16_seed : decode .start 0b1 = .ok [.crc16Seed] := rfl
theorem test_decode_crc7_fetch : decode (.step .crc7) 0b100 = .ok [.crc7Fetch, .crc7Shift] := rfl
theorem test_decode_crc7_reduce : decode (.step .crc7) 0b010 = .ok [.crc7Reduce, .crc7Shift] := rfl
theorem test_decode_crc7_stop : decode (.step .crc7) 0b001 = .ok [.crc7Stop] := rfl
theorem test_decode_crc7_shift : decode (.step .crc7) 0b000 = .ok [.crc7Shift] := rfl
theorem test_decode_crc16_fetch : decode (.step .crc16) 0b110 = .ok [.crc16Fetch, .crc16Reduce, .crc16Shift] := rfl
theorem test_decode_crc16_reduce : decode (.step .crc16) 0b011 = .ok [.crc16Reduce, .crc16Stop] := rfl
theorem test_decode_crc16_stop : decode (.step .crc16) 0b001 = .ok [.crc16Stop] := rfl
theorem test_decode_crc16_shift : decode (.step .crc16) 0b000 = .ok [.crc16Shift] := rfl
theorem test_decode_rejects_two_bit_command : decode .op 0b10 = .error (.tooWide .op 2) := rfl
theorem test_decode_rejects_four_bit_control_word : decode (.step .crc7) 8 = .error (.tooWide (.step .crc7) 8) := rfl

/-- The context-free reading of a table word (log 11). -/
theorem test_table_words : (List.range 9).map (decodeTableWord 8) =
    [some .crc7, some .crc16, some .crc7Reduce, some .crc7Reduce, some .crc7Fetch, none, some .crc7Fetch, none, none] := by
  decide

/-! ## The instructions, one step each -/

/-- `spec/60_exceptions.md` R144, example. -/
theorem test_crc7_command_seeds :
    after7 (exec .crc7 { State.reset with operand := [0x40, 0, 0, 0, 0] }) = some (0x40#8, 0, .run) := by decide
/-- `spec/95_test_vectors.md` 2.1, fault row. -/
theorem test_crc7_command_faults_on_empty_message :
    (after7 (exec .crc7 State.reset)).map (·.2.2) = some .fault := by decide
/-- R145. -/
theorem test_crc7_command_refused_in_run :
    exec .crc7 (at7 .run 0 0 [0]) = .refused (.startWhileRunning .crc7) := rfl
/-- R7: above a set `MAXBYTES`. -/
theorem test_crc16_command_refused_above_max_bytes :
    exec .crc16 { State.reset with cfg := { maxBytes := some 3 }, operand := [0, 0, 0, 0] } =
      .refused (.messageTooLong .crc16) := rfl
/-- `spec/95_test_vectors.md` 2.3, SEED. -/
theorem test_crc16_command_seeds :
    after16 (exec .crc16 { State.reset with operand := [0x12, 0x34, 0xD6] }) = some (0x02469#17, 0, .run) := by decide
/-- `spec/95_test_vectors.md` 2.2, fault row [AB CD]: `R` and `I` are not written. -/
theorem test_crc16_command_faults_on_two_bytes :
    after16 (exec .crc16 { at16 .done 0x715B 23 [0, 0, 0] with operand := [0xAB, 0xCD] }) =
      some (0x715B#17, 23, .fault) := by decide
/-- `spec/95_test_vectors.md` 2.3, SEED. -/
theorem test_crc7_seed : after7 (exec .crc7Seed (at7 .idle 0 9 [0xFF])) = some (0xFF#8, 0, .run) := by decide
/-- `spec/95_test_vectors.md` 2.3, SEED. -/
theorem test_crc16_seed : after16 (exec .crc16Seed (at16 .idle 0 9 [0x01, 0x02, 0x7F])) = some (0x00204#17, 0, .run) := by
  decide
/-- R72, example: `i = 3`, `MSG[1] = 0x35`. -/
theorem test_crc7_fetch : after7 (exec .crc7Fetch (at7 .run 0x90 3 [0x12, 0x35])) = some (0x91#8, 3, .run) := by decide
/-- `spec/95_test_vectors.md` 2.3: with two bytes `F` ends at `i = 7`. -/
theorem test_crc7_fetch_not_in_the_last_eight :
    after7 (exec .crc7Fetch (at7 .run 0x22 8 [0x12, 0x35])) = some (0x22#8, 8, .run) := by decide
/-- R92, example: `i = 2`, `MSG[2] = 0x56`. -/
theorem test_crc16_fetch :
    after16 (exec .crc16Fetch (at16 .run 0x091A0 2 [0x12, 0x34, 0x56])) = some (0x091A1#17, 2, .run) := by decide
/-- P2: bit 7 of byte 2 is taken a second time at `i = 1`. -/
theorem test_crc16_fetch_doubles_bit_sixteen :
    after16 (exec .crc16Fetch (at16 .run 0x00002 1 [0x00, 0x00, 0x80])) = some (0x00003#17, 1, .run) := by decide
/-- R73, example; `spec/95_test_vectors.md` 2.3. -/
theorem test_crc7_reduce : after7 (exec .crc7Reduce (at7 .run 0x91 3 [0, 0])) = some (0x18#8, 3, .run) := by decide
/-- `spec/95_test_vectors.md` 2.3: 0x7F is unchanged. -/
theorem test_crc7_reduce_leaves_low : after7 (exec .crc7Reduce (at7 .run 0x7F 3 [0, 0])) = some (0x7F#8, 3, .run) := by decide
/-- `spec/95_test_vectors.md` 2.3. -/
theorem test_crc16_reduce : after16 (exec .crc16Reduce (at16 .run 0x1FFFF 3 [0, 0, 0])) = some (0x0EFDE#17, 3, .run) := by decide
/-- `spec/95_test_vectors.md` 2.3: 0x0FFFF is unchanged. -/
theorem test_crc16_reduce_leaves_low :
    after16 (exec .crc16Reduce (at16 .run 0x0FFFF 3 [0, 0, 0])) = some (0x0FFFF#17, 3, .run) := by decide
/-- R74, example: `n = 1`, `I = 7`. -/
theorem test_crc7_stop : after7 (exec .crc7Stop (at7 .run 0x64 7 [0x40])) = some (0x64#8, 7, .done) := by decide
theorem test_crc7_stop_not_before_the_last : after7 (exec .crc7Stop (at7 .run 0x32 6 [0x40])) = some (0x32#8, 6, .run) := by decide
/-- R94, example: `n = 3`, `I = 23`. -/
theorem test_crc16_stop : after16 (exec .crc16Stop (at16 .run 0x0715B 23 [0, 0, 0])) = some (0x0715B#17, 23, .done) := by decide
/-- R75, example. -/
theorem test_crc7_shift : after7 (exec .crc7Shift (at7 .run 0x64 3 [0, 0])) = some (0xC8#8, 4, .run) := by decide
/-- R154: no shift in the last iteration. -/
theorem test_crc7_shift_not_in_the_last : after7 (exec .crc7Shift (at7 .run 0x64 7 [0x40])) = some (0x64#8, 7, .run) := by decide
/-- R95, example. -/
theorem test_crc16_shift : after16 (exec .crc16Shift (at16 .run 0x0C000 15 [0, 0, 0])) = some (0x18000#17, 16, .run) := by decide

/-! ## Steps -/

/-- P4, row `i = 3`: control word 110. -/
theorem test_step_crc7_iteration :
    after7 (step (asks [.turn .crc7] (at7 .run 0x90 3 [0x12, 0x35]))) = some (0x30#8, 4, .run) := by decide
/-- P3, row `i = 23`: control word 011. -/
theorem test_step_crc16_last_iteration :
    after16 (step (asks [.turn .crc16] (at16 .run 0x1617A 23 [0x12, 0x34, 0x56]))) = some (0x0715B#17, 23, .done) := by decide
/-- R19: the result of P3, read in DONE. -/
theorem test_step_reads_crc16_result :
    (nextOf (step (asks [.readResult .crc16] (at16 .done 0x0715B 23 [0x12, 0x34, 0x56])))).map (·.reply) =
      some (some (.result16 0x715B#16 0x0715B#17)) := by decide
/-- R153: no result during RUN. -/
theorem test_step_result_has_no_value_in_run :
    step (asks [.readResult .crc7] (at7 .run 0x40 0 [0x40])) = .fault (.noValue .crc7) := rfl
/-- P6, step 2: the poll after the fault. -/
theorem test_step_poll_after_fault :
    (nextOf (step (asks [.poll .crc16] (at16 .fault 0 0 [0xAB, 0xCD])))).map (·.reply) =
      some (some (.status .crc16 false true)) := by decide
/-- R150: reset during RUN. -/
theorem test_step_reset : (after7 (step (asks [.reset] (at7 .run 0x40 0 [0x40])))).map (·.2.2) = some .idle := by decide

/-- Placed words run: the command, and an iteration with `F` alone (log 12). -/
theorem test_placed_command_runs : (after7 (step (State.reset.withFetchWord 8 0))) = some (0#8, 0, .run) := by decide
theorem test_placed_control_word : (State.reset.withFetchWord 8 4).controlWord .crc7 = 4 ∧
    (State.reset.withFetchWord 8 6).controlWord .crc7 = 6 ∧ (State.reset.withFetchWord 8 2).controlWord .crc7 = 2 ∧
    (State.reset.withFetchWord 8 3).controlWord .crc7 = 3 := by decide

/-! ## Function level: vectors of `spec/95_test_vectors.md` sections 1, 2.1, 2.2 -/

set_option maxRecDepth 8000 in
theorem test_vector_s1 : crc7Function [0x40, 0, 0, 0, 0] = .ok 0x4A#8 := by decide
set_option maxRecDepth 8000 in
theorem test_vector_s2 : crc7Function [0x51, 0, 0, 0, 0] = .ok 0x2A#8 := by decide
set_option maxRecDepth 8000 in
theorem test_vector_s3 : crc7Function [0x11, 0, 0, 0x09, 0] = .ok 0x33#8 := by decide
set_option maxRecDepth 8000 in
theorem test_vector_crc7_dropped_bit : crc7Function [0x12, 0x35] = .ok 0x20#8 := by decide
set_option maxRecDepth 8000 in
theorem test_vector_crc7_one_byte : crc7Function [0xFF] = .ok 0x79#8 := by decide
set_option maxRecDepth 8000 in
theorem test_vector_crc16_p2 : crc16Function [0x00, 0x00, 0x80] = .ok 0xD94C#17 := by decide
set_option maxRecDepth 8000 in
theorem test_vector_crc16_p3 : crc16Function [0x12, 0x34, 0x56] = .ok 0x715B#17 := by decide
set_option maxRecDepth 8000 in
theorem test_vector_crc16_eight_bytes :
    crc16Function [0xAA, 0xAA, 0xAA, 0xAA, 0xAA, 0xAA, 0xAA, 0xAA] = .ok 0x775E#17 := by decide
set_option maxRecDepth 8000 in
theorem test_vector_crc16_too_short : crc16Function [0xAB, 0xCD] = .error ⟨2⟩ := by decide

/-! ## Witnesses: the hypotheses of the obligations can be met, each clause at a boundary -/

/-- A running CRC7 engine in iteration 1 with the guard bit set, meeting the invariant. -/
def running7 : State := at7 .run 0x80 1 [0x40, 0x00]
/-- A running CRC16 engine in iteration 2 with the guard bit set, meeting the invariant. -/
def running16 : State := at16 .run 0x12342 2 [0x12, 0x34, 0x56]
/-- A finished CRC7 engine. -/
def finished7 : State := at7 .done 0x64 7 [0x40]
/-- A finished CRC16 engine. -/
def finished16 : State := at16 .done 0x0715B 23 [0x12, 0x34, 0x56]
/-- Both engines running, nothing in the inbox. -/
def bothRunning : State := { running7 with crc16 := running16.crc16 }

theorem witness_DecodeOfEncodeGivesTheUnitBack :
    unitWf (.step .crc7) [.crc7Fetch, .crc7Reduce, .crc7Shift] = true ∧ unitWf .op [.crc16] = true := by decide
theorem witness_EveryWordOfItsLengthDecodes :
    7 < 2 ^ wordBits (.step .crc16) ∧ 2 ^ wordBits (.step .crc16) ≤ 8 ∧ 1 < 2 ^ wordBits .op ∧ 2 ^ wordBits .op ≤ 2 := by decide
theorem witness_ControlWordBitsSelectTheirRows : (7 : Nat) < 8 := by decide
theorem witness_ResetAbandonsWhateverRuns :
    (asks [.reset] running7).inbox = .reset :: [] ∧ (asks [.reset] running7).crc7.ph = .run := by decide
theorem witness_PollReportsDoneAndErr :
    (asks [.poll .crc7] running7).inbox = .poll .crc7 :: [] ∧ (asks [.poll .crc16] finished16).inbox = .poll .crc16 :: [] := by
  decide
theorem witness_ResultIsReadInDoneOnly :
    (asks [.readResult .crc7] finished7).crc7.ph = .done ∧ (asks [.readResult .crc7] running7).crc7.ph ≠ .done ∧
    (asks [.readResult .crc16] finished16).crc16.ph = .done ∧ (asks [.readResult .crc16] running16).crc16.ph ≠ .done := by decide
theorem witness_MemReadReturnsTheByteOrRaises :
    1 < [0x12#8, 0x35#8].length ∧ [0x12#8, 0x35#8].length ≤ 2 := by decide
theorem witness_ExtractedBitIsTheLookAheadPosition :
    1 ≤ 1 ∧ 1 + 8 * 1 - 1 < 8 * [0x12#8, 0x35#8].length ∧ 8 + 8 * 1 - 1 < 8 * [0x12#8, 0x35#8].length := by decide
theorem witness_SeedHoldsTheFirstMessageBits :
    [0x40#8] = 0x40#8 :: [] ∧ [0x12#8, 0x34#8, 0x56#8] = 0x12#8 :: 0x34#8 :: 0x56#8 :: [] ∧ (16 : Nat) < 17 := by decide
theorem witness_Crc7CommandBindsAndSeeds :
    finished7.crc7.ph ≠ .run ∧
    (admits { maxBytes := some 1 } [0x40#8].length = true ∧ ({ finished7 with operand := [0x40] } : State).operand = 0x40#8 :: []) ∧
    admits { maxBytes := some 0 } ([] : List Byte).length = true ∧ ({ finished7 with operand := [] } : State).operand = [] := by
  decide
theorem witness_Crc16CommandBindsAndSeeds :
    finished16.crc16.ph ≠ .run ∧ admits finished16.cfg 3 = true ∧
    ({ finished16 with operand := [0, 0, 0x80] } : State).operand = 0#8 :: 0#8 :: 0x80#8 :: [] ∧
    ({ finished16 with operand := [0xAB, 0xCD] } : State).operand.length ≤ 2 := by decide
theorem witness_CommandsAreRefusedInRunAndAboveMaxBytes :
    running7.crc7.ph = .run ∧ running16.crc16.ph = .run ∧
    ({ finished7 with cfg := { maxBytes := some 2 }, operand := [0, 0, 0] } : State).cfg.maxBytes = some 2 ∧
    2 < ({ finished7 with cfg := { maxBytes := some 2 }, operand := [0, 0, 0] } : State).operand.length ∧
    finished7.crc7.ph ≠ .run ∧ finished7.crc16.ph ≠ .run := by decide
theorem witness_CommandsFaultExactlyOnShortMessages :
    (∃ t, exec .crc7 finished7 = .next t) ∧ ∃ t, exec .crc16 { finished16 with operand := [0, 0, 0] } = .next t :=
  ⟨⟨_, rfl⟩, ⟨_, rfl⟩⟩
theorem witness_Crc7SeedResult :
    (0 < finished7.crc7.n ∧ finished7.crc7.msg.read 0 = some 0x40#8) ∧ (at7 .idle 0 0 []).crc7.n = 0 := by decide
theorem witness_Crc16SeedResult :
    (2 < finished16.crc16.n ∧ finished16.crc16.msg.read 0 = some 0x12#8 ∧ finished16.crc16.msg.read 1 = some 0x34#8 ∧
      finished16.crc16.msg.read 2 = some 0x56#8) ∧ (at16 .idle 0 0 [0, 0]).crc16.n ≤ 2 := by decide
/-- A running engine whose memory does not list the byte it is to fetch: no run reaches it (log 13). -/
def holed7 : State := { running7 with crc7 := { running7.crc7 with msg := [(0, 0x40#8)] } }
/-- The same for the CRC16 engine. -/
def holed16 : State := { running16 with crc16 := { running16.crc16 with msg := [(0, 0x12#8)] } }
theorem witness_Crc7FetchResult :
    (running7.crc7.ph = .run ∧ running7.crc7.i ≠ 0 ∧ running7.crc7.i + 8 < 8 * running7.crc7.n ∧
      running7.crc7.msg.read ((running7.crc7.i - 1) / 8 + 1) = some 0#8) ∧
    ((at7 .run 0 7 [0, 0]).crc7.i ≠ 0 ∧ (at7 .run 0 7 [0, 0]).crc7.i + 8 < 8 * (at7 .run 0 7 [0, 0]).crc7.n) ∧
    (holed7.crc7.ph = .run ∧ holed7.crc7.i ≠ 0 ∧ holed7.crc7.i + 8 < 8 * holed7.crc7.n ∧
      holed7.crc7.msg.read ((holed7.crc7.i - 1) / 8 + 1) = none) ∧
    (at7 .run 0 0 [0, 0]).crc7.i = 0 ∧ 8 * (at7 .run 0 8 [0, 0]).crc7.n ≤ (at7 .run 0 8 [0, 0]).crc7.i + 8 := by decide
theorem witness_Crc16FetchResult :
    (running16.crc16.ph = .run ∧ running16.crc16.i ≠ 0 ∧ running16.crc16.i + 16 < 8 * running16.crc16.n ∧
      running16.crc16.msg.read ((running16.crc16.i - 1) / 8 + 2) = some 0x56#8) ∧
    ((at16 .run 0 7 [0, 0, 0]).crc16.i + 16 < 8 * (at16 .run 0 7 [0, 0, 0]).crc16.n) ∧
    (holed16.crc16.ph = .run ∧ holed16.crc16.i ≠ 0 ∧ holed16.crc16.i + 16 < 8 * holed16.crc16.n ∧
      holed16.crc16.msg.read ((holed16.crc16.i - 1) / 8 + 2) = none) ∧
    (at16 .run 0 0 [0, 0, 0]).crc16.i = 0 ∧
    8 * (at16 .run 0 8 [0, 0, 0]).crc16.n ≤ (at16 .run 0 8 [0, 0, 0]).crc16.i + 16 := by decide
theorem witness_ReduceResult :
    running7.crc7.ph = .run ∧ running7.crc7.r.getLsbD 7 = true ∧ (at7 .run 0x7F 0 [0]).crc7.r.getLsbD 7 = false ∧
    running16.crc16.ph = .run ∧ running16.crc16.r.getLsbD 16 = true ∧
    (at16 .run 0x0FFFF 0 [0, 0, 0]).crc16.r.getLsbD 16 = false := by decide
theorem witness_StopResult :
    ((at7 .run 0 7 [0]).crc7.ph = .run ∧ (at7 .run 0 6 [0]).crc7.ph = .run) ∧
    ((at16 .run 0 23 [0, 0, 0]).crc16.ph = .run ∧ (at16 .run 0 22 [0, 0, 0]).crc16.ph = .run) ∧
    8 * (at7 .run 0 7 [0]).crc7.n ≤ (at7 .run 0 7 [0]).crc7.i + 1 ∧
    (at7 .run 0 6 [0]).crc7.i + 1 < 8 * (at7 .run 0 6 [0]).crc7.n ∧
    8 * (at16 .run 0 23 [0, 0, 0]).crc16.n ≤ (at16 .run 0 23 [0, 0, 0]).crc16.i + 1 ∧
    (at16 .run 0 22 [0, 0, 0]).crc16.i + 1 < 8 * (at16 .run 0 22 [0, 0, 0]).crc16.n := by decide
theorem witness_ShiftResult :
    ((at7 .run 0 7 [0]).crc7.ph = .run ∧ (at7 .run 0 6 [0]).crc7.ph = .run) ∧
    ((at16 .run 0 23 [0, 0, 0]).crc16.ph = .run ∧ (at16 .run 0 22 [0, 0, 0]).crc16.ph = .run) ∧
    (at7 .run 0 6 [0]).crc7.i + 1 < 8 * (at7 .run 0 6 [0]).crc7.n ∧
    8 * (at7 .run 0 7 [0]).crc7.n ≤ (at7 .run 0 7 [0]).crc7.i + 1 ∧
    (at16 .run 0 22 [0, 0, 0]).crc16.i + 1 < 8 * (at16 .run 0 22 [0, 0, 0]).crc16.n ∧
    8 * (at16 .run 0 23 [0, 0, 0]).crc16.n ≤ (at16 .run 0 23 [0, 0, 0]).crc16.i + 1 := by decide
theorem witness_MicroOperationsOutsideRunDoNothing :
    finished7.crc7.ph ≠ .run ∧ finished16.crc16.ph ≠ .run ∧
    Instr.crc7Stop ∈ [Instr.crc7Fetch, .crc7Reduce, .crc7Stop, .crc7Shift] ∧
    Instr.crc16Shift ∈ [Instr.crc16Fetch, .crc16Reduce, .crc16Stop, .crc16Shift] := by decide
theorem witness_Crc7RowsFrame :
    (∃ t, Instr.crc7Fetch.engine = .crc7 ∧ exec .crc7Fetch running7 = .next t) ∧
    ∃ t, exec .crc7 finished7 = .next t ∧ t.crc7.ph = .fault := ⟨⟨_, rfl, rfl⟩, ⟨_, rfl, rfl⟩⟩
theorem witness_Crc16RowsFrame :
    (∃ t, Instr.crc16Fetch.engine = .crc16 ∧ exec .crc16Fetch running16 = .next t) ∧
    ∃ t, exec .crc16 finished16 = .next t ∧ t.crc16.ph = .fault := ⟨⟨_, rfl, rfl⟩, ⟨_, rfl, rfl⟩⟩
theorem witness_RowsTouchNothingOfTheOtherEngine :
    (running7.cfg = bothRunning.cfg ∧ running7.operand = bothRunning.operand ∧ running7.crc7 = bothRunning.crc7 ∧
      running7 ≠ bothRunning) ∧
    (running16.crc16 = bothRunning.crc16 ∧ running16 ≠ bothRunning) ∧
    (∃ t, exec .crc7Reduce running7 = .next t) ∧ (∃ x, exec .crc7 running7 = .refused x) ∧
    (∃ t, exec .crc16Reduce running16 = .next t) ∧ ∃ x, exec .crc16 running16 = .refused x :=
  ⟨by decide, by decide, ⟨_, rfl⟩, ⟨_, rfl⟩, ⟨_, rfl⟩, ⟨_, rfl⟩⟩
theorem witness_StepRunsTheDecodedCommand :
    (asks [.start 1#1 [0x40]] running7).inbox = .start 1#1 [0x40] :: [] := by decide
theorem witness_StepRunsTheDecodedIteration :
    ((asks [.turn .crc16] running16).inbox = .turn .crc16 :: [] ∧ (asks [.turn .crc16] running16).phase .crc16 = .run) ∧
    (asks [.turn .crc7] finished7).phase .crc7 ≠ .run ∧
    (running7.inbox = [] ∧ running7.crc7.ph = .run) ∧ (running16.crc7.ph ≠ .run ∧ running16.crc16.ph = .run) ∧
    finished7.crc7.ph ≠ .run ∧ finished7.crc16.ph ≠ .run := by decide
theorem witness_Crc7IterationIsFetchReduceStopOrShift :
    (asks [.turn .crc7] (at7 .run 0x90 3 [0x12, 0x35])).crc7.ph = .run ∧
    (3 ≠ 0 ∧ 3 + 8 < 8 * 2 ∧ (at7 .run 0x90 3 [0x12, 0x35]).crc7.msg.read ((3 - 1) / 8 + 1) = some 0x35#8 ∧
      0x91#8 = 0x90#8 ||| (if (0x35#8).getLsbD ((8 - (3 + 8) % 8) % 8) = true then 1#8 else 0#8)) ∧
    0x18#8 = (if (0x91#8).getLsbD 7 = true then 0x91#8 ^^^ 0x89#8 else 0x91#8) ∧
    (3 + 1 < 8 * 2 ∧ 8 * 2 ≤ 15 + 1 ∧ 8 * 2 ≤ 15 + 8) ∧ (asks [.turn .crc7] finished7).crc7.ph ≠ .run := by decide
theorem witness_Crc16IterationIsFetchReduceStopOrShift :
    (asks [.turn .crc16] (at16 .run 0x091A0 2 [0x12, 0x34, 0x56])).crc16.ph = .run ∧
    (2 ≠ 0 ∧ 2 + 16 < 8 * 3 ∧ (at16 .run 0x091A0 2 [0x12, 0x34, 0x56]).crc16.msg.read ((2 - 1) / 8 + 2) = some 0x56#8 ∧
      0x091A1#17 = 0x091A0#17 ||| (if (0x56#8).getLsbD ((8 - (2 + 8) % 8) % 8) = true then 1#17 else 0#17)) ∧
    0x091A1#17 = (if (0x091A1#17).getLsbD 16 = true then 0x091A1#17 ^^^ 0x11021#17 else 0x091A1#17) ∧
    (2 + 1 < 8 * 3 ∧ 8 * 3 ≤ 23 + 1 ∧ 8 * 3 ≤ 23 + 16) ∧ (asks [.turn .crc16] finished16).crc16.ph ≠ .run := by decide
theorem witness_ReduceFlipsTheFetchedBit :
    ((asks [.turn .crc7] running7).Inv ∧ running7.crc7.ph = .run ∧ condF crc7Const running7.crc7 = true ∧
      running7.crc7.r.getLsbD 7 = true ∧ extractBit 1 running7.crc7 running7.crc7.i = .ok 0#1) ∧
    ((asks [.turn .crc16] running16).Inv ∧ running16.crc16.ph = .run ∧ condF crc16Const running16.crc16 = true ∧
      running16.crc16.r.getLsbD 16 = true ∧ extractBit 2 running16.crc16 running16.crc16.i = .ok 1#1) :=
  ⟨⟨by decide, by decide, by decide, by decide, rfl⟩, by decide, by decide, by decide, by decide, rfl⟩
theorem witness_GuardBitIsClearAfterReduce : running7.crc7.ph = .run ∧ running16.crc16.ph = .run := by decide
theorem witness_EveryStepKeepsTheInvariant : bothRunning.Inv ∧ ∃ t, step bothRunning = .next t := ⟨by decide, _, rfl⟩
theorem witness_FetchCannotFaultOnceSeeded :
    bothRunning.Inv ∧ bothRunning.crc7.ph = .run ∧ condF crc7Const bothRunning.crc7 = true ∧
    bothRunning.crc16.ph = .run ∧ condF crc16Const bothRunning.crc16 = true := by decide
theorem witness_GuardBitIsClearAtDone :
    (finished7.Inv ∧ finished7.crc7.ph = .done) ∧ finished16.Inv ∧ finished16.crc16.ph = .done :=
  ⟨⟨by decide, by decide⟩, by decide, by decide⟩
theorem witness_StepStopsOnlyOnAnUndutifulHost :
    bothRunning.dutiful = true ∧ (asks [.start 0#1 [0]] running7).dutiful = false ∧
    (asks [.readResult .crc7] running7).dutiful = false := by decide
theorem witness_OutsideRunOnlyStartAndResetChangeAnEngine :
    (∃ t, step (asks [.turn .crc7] finished7) = .next t) ∧ (asks [.turn .crc7] finished7).crc7.ph ≠ .run ∧
    (∀ msg rest, (asks [.turn .crc7] finished7).inbox ≠ .start 0#1 msg :: rest) ∧
    (∀ rest, (asks [.turn .crc7] finished7).inbox ≠ .reset :: rest) ∧
    (∃ t, step (asks [.turn .crc16] finished16) = .next t) ∧ (asks [.turn .crc16] finished16).crc16.ph ≠ .run ∧
    (∀ msg rest, (asks [.turn .crc16] finished16).inbox ≠ .start 1#1 msg :: rest) ∧
    (∀ rest, (asks [.turn .crc16] finished16).inbox ≠ .reset :: rest) :=
  ⟨⟨_, rfl⟩, by decide, by simp [asks], by simp [asks], ⟨_, rfl⟩, by decide, by simp [asks], by simp [asks]⟩
theorem witness_MessagesAreNeverWrittenByAStep :
    (∃ t, step (asks [.turn .crc7] running7) = .next t) ∧
    (∀ rest, (asks [.turn .crc7] running7).inbox ≠ .reset :: rest) ∧
    (∀ msg rest, (asks [.turn .crc7] running7).inbox ≠ .start 0#1 msg :: rest) ∧
    (∀ msg rest, (asks [.turn .crc7] running7).inbox ≠ .start 1#1 msg :: rest) :=
  ⟨⟨_, rfl⟩, by simp [asks], by simp [asks], by simp [asks]⟩
theorem witness_StartForgetsThePast :
    (asks [.start 0#1 [0x40]] finished7).cfg = (asks [.start 0#1 [0x40]] State.reset).cfg ∧
    (asks [.start 0#1 [0x40]] finished7).phase (engineOfOp 0#1) ≠ .run ∧
    (asks [.start 0#1 [0x40]] State.reset).phase (engineOfOp 0#1) ≠ .run ∧
    (asks [.start 1#1 [0, 0, 0]] finished16).phase (engineOfOp 1#1) ≠ .run ∧
    admits State.reset.cfg [0x40#8].length = true ∧
    (∃ t, step (asks [.start 0#1 [0x40]] finished7) = .next t ∧ t.crc7.ph = .run) ∧
    ∃ t, step (asks [.start 1#1 [0, 0, 0]] finished16) = .next t ∧ t.crc16.ph = .run :=
  ⟨by decide, by decide, by decide, by decide, by decide, ⟨_, rfl, rfl⟩, ⟨_, rfl, rfl⟩⟩
theorem witness_NumberOfFetches : 1 ≤ finished7.crc7.n ∧ 3 ≤ finished16.crc16.n := by decide
/-- START of the CRC7 engine with one byte and `k` turns, the CRC16 engine running beside it. -/
def started7 (k : Nat) : State := asks (.start 0#1 [0x40] :: (List.replicate k (.turn .crc7) ++ [])) running16
/-- START of the CRC16 engine with three bytes and `k` turns, the CRC7 engine running beside it. -/
def started16 (k : Nat) : State := asks (.start 1#1 [0, 0, 0] :: (List.replicate k (.turn .crc16) ++ [])) running7
theorem witness_EngineStillRunsBeforeEightNTurns :
    ((started7 7).inbox = .start 0#1 [0x40] :: (List.replicate 7 (.turn .crc7) ++ []) ∧ (started7 7).crc7.ph ≠ .run ∧
      admits (started7 7).cfg [0x40#8].length = true ∧ 7 < 8 * [0x40#8].length ∧ 1 ≤ [0x40#8].length) ∧
    ((started16 23).inbox = .start 1#1 [0, 0, 0] :: (List.replicate 23 (.turn .crc16) ++ []) ∧
      (started16 23).crc16.ph ≠ .run ∧ admits (started16 23).cfg [0#8, 0#8, 0#8].length = true ∧
      23 < 8 * [0#8, 0#8, 0#8].length ∧ 3 ≤ [0#8, 0#8, 0#8].length) :=
  ⟨⟨rfl, by decide, by decide, by decide, by decide⟩, rfl, by decide, by decide, by decide, by decide⟩
theorem witness_OperationsComputeTheirFunctions :
    ((started7 8).inbox = .start 0#1 [0x40] :: (List.replicate (8 * [0x40#8].length) (.turn .crc7) ++ []) ∧
      (started7 8).crc7.ph ≠ .run ∧ admits (started7 8).cfg [0x40#8].length = true ∧ 1 ≤ [0x40#8].length) ∧
    ((started16 24).inbox = .start 1#1 [0, 0, 0] :: (List.replicate (8 * [0#8, 0#8, 0#8].length) (.turn .crc16) ++ []) ∧
      (started16 24).crc16.ph ≠ .run ∧ admits (started16 24).cfg [0#8, 0#8, 0#8].length = true ∧
      3 ≤ [0#8, 0#8, 0#8].length) :=
  ⟨⟨rfl, by decide, by decide, by decide⟩, rfl, by decide, by decide, by decide⟩
/-- Turns of both engines and a poll, 8 turns of the CRC7 engine among them. -/
def mixed7 : List Event := .poll .crc7 :: .turn .crc16 :: List.replicate 8 (.turn .crc7)
/-- Turns of both engines, 24 of the CRC16 engine among them. -/
def mixed16 : List Event := .turn .crc7 :: List.replicate 24 (.turn .crc16)
theorem witness_AnyInterleavingGivesTheSameResult :
    ((∀ ev ∈ mixed7, ev.turnOrPoll = true) ∧
      (asks (.start 0#1 [0x40] :: (mixed7 ++ [])) running16).inbox = .start 0#1 [0x40] :: (mixed7 ++ []) ∧
      running16.crc7.ph ≠ .run ∧ admits running16.cfg [0x40#8].length = true ∧ 1 ≤ [0x40#8].length ∧
      8 * [0x40#8].length ≤ mixed7.count (.turn .crc7)) ∧
    ((∀ ev ∈ mixed16, ev.turnOrPoll = true) ∧
      (asks (.start 1#1 [0, 0, 0] :: (mixed16 ++ [])) running7).inbox = .start 1#1 [0, 0, 0] :: (mixed16 ++ []) ∧
      running7.crc16.ph ≠ .run ∧ admits running7.cfg [0#8, 0#8, 0#8].length = true ∧ 3 ≤ [0#8, 0#8, 0#8].length ∧
      8 * [0#8, 0#8, 0#8].length ≤ mixed16.count (.turn .crc16)) :=
  ⟨⟨by decide, rfl, by decide, by decide, by decide, by decide⟩,
    by decide, rfl, by decide, by decide, by decide, by decide⟩
theorem witness_RunningEnginesReachDone :
    bothRunning.Inv ∧ bothRunning.inbox = [] ∧ bothRunning.crc7.ph = .run ∧ bothRunning.crc16.ph = .run := by decide
theorem witness_EnginesDivideTheirEffectiveStrings : 1 ≤ [0x40#8].length ∧ 3 ≤ [0#8, 0#8, 0#8].length := by decide
theorem witness_LastMessageBitIsIgnored :
    0x34#8 >>> 1 = 0x35#8 >>> 1 ∧ 0x34#8 ≠ 0x35#8 ∧ 1 ≤ [0x12#8].length ∧ 2 ≤ [0x12#8, 0x34#8].length := by decide
set_option maxRecDepth 8000 in
theorem witness_ResultsAreInRange :
    crc7Function [0xFF] = .ok 0x79#8 ∧ crc16Function [0x00, 0x00, 0x80] = .ok 0xD94C#17 := by decide

end Sys2Proof.Tests
end

section
/-! PROOFS. The family 00_scope, R2: a row is a function of the open parameter, the presented message and its own engine,
and it writes its own engine only. -/

namespace Sys2Proof.Proofs.Scope

open Sys2Proof.Machine

variable {w : Nat}

/-- What a row of one engine may read: the open parameter, the presented message and the engine `get` names. -/
def SameInputs (get : State → Engine w) (s s' : State) : Prop :=
  s'.cfg = s.cfg ∧ s'.operand = s.operand ∧ get s' = get s

/-- `f` acts on one engine only: in all states with the inputs of `s` it gives the same refusal, or it puts the same new
engine into each of them and leaves the rest of it alone. -/
def ActsOnlyOn (get : State → Engine w) (put : State → Engine w → State)
    (f : State → Host.Outcome State Fault Refusal) : Prop :=
  ∀ s, (∃ x, ∀ s', SameInputs get s s' → f s' = .refused x) ∨ (∃ e, ∀ s', SameInputs get s s' → f s' = .next (put s' e))

/-- The state with its CRC7 engine replaced. -/
def putCrc7 (s : State) (e : Engine 8) : State := { s with crc7 := e }

/-- The state with its CRC16 engine replaced. -/
def putCrc16 (s : State) (e : Engine 17) : State := { s with crc16 := e }

@[simp] theorem putCrc7_crc7 (s : State) (e : Engine 8) : (putCrc7 s e).crc7 = e := rfl
@[simp] theorem putCrc7_crc16 (s : State) (e : Engine 8) : (putCrc7 s e).crc16 = s.crc16 := rfl
@[simp] theorem putCrc16_crc7 (s : State) (e : Engine 17) : (putCrc16 s e).crc7 = s.crc7 := rfl
@[simp] theorem putCrc16_crc16 (s : State) (e : Engine 17) : (putCrc16 s e).crc16 = e := rfl

section General

variable {get : State → Engine w} {put : State → Engine w → State} {f : State → Host.Outcome State Fault Refusal}

/-- A row that always answers a next state, an operation `g` on its engine, acts on that engine only. -/
theorem actsOnlyOn_of_next (g : Engine w → Engine w) (h : ∀ s, f s = .next (put s (g (get s)))) :
    ActsOnlyOn get put f :=
  fun s => .inr ⟨g (get s), fun s' ⟨_, _, he⟩ => by rw [h s', he]⟩

theorem ActsOnlyOn.next (hf : ActsOnlyOn get put f) {s s' t : State} (hs : SameInputs get s s') (h : f s = .next t) :
    ∃ e, t = put s e ∧ f s' = .next (put s' e) := by
  rcases hf s with ⟨x, hx⟩ | ⟨e, he⟩
  · cases (hx s ⟨rfl, rfl, rfl⟩).symm.trans h
  · cases (he s ⟨rfl, rfl, rfl⟩).symm.trans h
    exact ⟨e, rfl, he s' hs⟩

theorem ActsOnlyOn.refused (hf : ActsOnlyOn get put f) {s s' : State} {x : Refusal} (hs : SameInputs get s s')
    (h : f s = .refused x) : f s' = .refused x := by
  rcases hf s with ⟨y, hy⟩ | ⟨e, he⟩
  · cases (hy s ⟨rfl, rfl, rfl⟩).symm.trans h
    exact hy s' hs
  · cases (he s ⟨rfl, rfl, rfl⟩).symm.trans h

/-- Acting on one engine only, said of two states: the rest (`other`) stays, and equal inputs give that engine, or the
refusal, equally. -/
theorem ActsOnlyOn.noninterference (hf : ActsOnlyOn get put f) {β : Type} {other : State → β}
    (hget : ∀ s e, get (put s e) = e) (hother : ∀ s e, other (put s e) = other s) {s s' : State}
    (hs : SameInputs get s s') :
    (∀ t, f s = .next t → other t = other s ∧ ∃ t', f s' = .next t' ∧ get t' = get t) ∧
      (∀ x, f s = .refused x → f s' = .refused x) := by
  refine ⟨fun t ht => ?_, fun x hx => hf.refused hs hx⟩
  obtain ⟨e, rfl, ht'⟩ := hf.next hs ht
  exact ⟨hother s e, put s' e, ht', by rw [hget, hget]⟩

end General

/-- START decides by its own engine's phase and the length of the message, and seeds its own engine (R144, R145). -/
theorem execCrc7_actsOnlyOn : ActsOnlyOn State.crc7 putCrc7 execCrc7 := by
  intro s
  by_cases hrun : s.crc7.ph = .run
  · exact .inl ⟨_, fun s' ⟨_, _, he⟩ => by rw [execCrc7, he, if_pos hrun]⟩
  by_cases hlen : admits s.cfg s.operand.length = true
  · exact .inr ⟨startEngine seedValue7 s.operand s.crc7, fun s' ⟨hc, ho, he⟩ => by
      simp only [execCrc7, putCrc7, he, hc, ho, if_neg hrun, if_pos hlen]⟩
  · exact .inl ⟨_, fun s' ⟨hc, ho, he⟩ => by rw [execCrc7, he, hc, ho, if_neg hrun, if_neg hlen]⟩

/-- START of the other engine, in the same way. -/
theorem execCrc16_actsOnlyOn : ActsOnlyOn State.crc16 putCrc16 execCrc16 := by
  intro s
  by_cases hrun : s.crc16.ph = .run
  · exact .inl ⟨_, fun s' ⟨_, _, he⟩ => by rw [execCrc16, he, if_pos hrun]⟩
  by_cases hlen : admits s.cfg s.operand.length = true
  · exact .inr ⟨startEngine seedValue16 s.operand s.crc16, fun s' ⟨hc, ho, he⟩ => by
      simp only [execCrc16, putCrc16, he, hc, ho, if_neg hrun, if_pos hlen]⟩
  · exact .inl ⟨_, fun s' ⟨hc, ho, he⟩ => by rw [execCrc16, he, hc, ho, if_neg hrun, if_neg hlen]⟩

/-- START and the five rows that are one sub-step each. -/
theorem exec_actsOnlyOn_crc7 {i : Instr} (hi : i.engine = .crc7) : ActsOnlyOn State.crc7 putCrc7 (exec i) := by
  cases i with
  | crc7 => exact execCrc7_actsOnlyOn
  | crc7Seed => exact actsOnlyOn_of_next (fun e => subSeed (seedValue7 e) e) fun _ => rfl
  | crc7Fetch => exact actsOnlyOn_of_next (subFetch crc7Const) fun _ => rfl
  | crc7Reduce => exact actsOnlyOn_of_next (subReduce crc7Const) fun _ => rfl
  | crc7Stop => exact actsOnlyOn_of_next subStop fun _ => rfl
  | crc7Shift => exact actsOnlyOn_of_next (subShift crc7Const) fun _ => rfl
  | crc16 | crc16Seed | crc16Fetch | crc16Reduce | crc16Stop | crc16Shift => cases hi

theorem exec_actsOnlyOn_crc16 {i : Instr} (hi : i.engine = .crc16) : ActsOnlyOn State.crc16 putCrc16 (exec i) := by
  cases i with
  | crc16 => exact execCrc16_actsOnlyOn
  | crc16Seed => exact actsOnlyOn_of_next (fun e => subSeed (seedValue16 e) e) fun _ => rfl
  | crc16Fetch => exact actsOnlyOn_of_next (subFetch crc16Const) fun _ => rfl
  | crc16Reduce => exact actsOnlyOn_of_next (subReduce crc16Const) fun _ => rfl
  | crc16Stop => exact actsOnlyOn_of_next subStop fun _ => rfl
  | crc16Shift => exact actsOnlyOn_of_next (subShift crc16Const) fun _ => rfl
  | crc7 | crc7Seed | crc7Fetch | crc7Reduce | crc7Stop | crc7Shift => cases hi

/-- Settles O28: each row acts on its own engine only, from the inputs the two states share. -/
theorem rowsTouchNothingOfTheOtherEngine : Obligations.RowsTouchNothingOfTheOtherEngine := by
  intro i s s' hcfg hop
  constructor
  · intro hi hcrc7
    exact (exec_actsOnlyOn_crc7 hi).noninterference putCrc7_crc7 putCrc7_crc16 ⟨hcfg.symm, hop.symm, hcrc7.symm⟩
  · intro hi hcrc16
    exact (exec_actsOnlyOn_crc16 hi).noninterference putCrc16_crc16 putCrc16_crc7 ⟨hcfg.symm, hop.symm, hcrc16.symm⟩

end Sys2Proof.Proofs.Scope
end

section
/-! PROOFS. The family 00_scope, R8: long division of a bit string is the remainder of polynomials over GF(2). Proved once
for every divisor whose leading bit is the top bit of the register; the constants of both engines are such divisors. -/

namespace Sys2Proof.Proofs.Division

open Sys2Proof.Machine Polynomial

/-- A register read as a polynomial over GF(2): bit `k` is the coefficient of `x^k`. -/
noncomputable def registerPoly {w : Nat} (r : BitVec w) : Polynomial (ZMod 2) :=
  ∑ k ∈ Finset.range w, if r.getLsbD k = true then X ^ k else 0

/-- A bit string read as a polynomial over GF(2), most significant bit first. -/
noncomputable def bitsPoly (bits : List Bool) : Polynomial (ZMod 2) :=
  bits.foldl (fun p b => p * X + (if b = true then 1 else 0)) 0

theorem bitsPoly_append_singleton (bits : List Bool) (b : Bool) :
    bitsPoly (bits ++ [b]) = bitsPoly bits * X + (if b = true then 1 else 0) := by
  simp [bitsPoly]

theorem longDivide_append_singleton {w : Nat} (c : Consts w) (bits : List Bool) (b : Bool) :
    longDivide c (bits ++ [b]) = divideStep c (longDivide c bits) b := by
  simp [longDivide]

section Registers

variable {w d : Nat}

@[simp] theorem registerPoly_coeff (r : BitVec w) (k : Nat) :
    (registerPoly r).coeff k = if r.getLsbD k = true then 1 else 0 := by
  have hterm (j : Nat) : (if r.getLsbD j = true then (X : Polynomial (ZMod 2)) ^ j else 0).coeff k =
      if k = j then (if r.getLsbD k = true then 1 else 0) else 0 := by
    by_cases hkj : k = j
    · subst hkj; split <;> simp
    · split <;> simp [coeff_X_pow, hkj]
  rw [registerPoly, finsetSum_coeff, Finset.sum_congr rfl fun j _ => hterm j, Finset.sum_ite_eq]
  by_cases hk : k < w
  · simp [hk]
  · simp [hk, BitVec.getLsbD_of_ge r k (by omega)]

/-- Over GF(2) exclusive or is addition. -/
theorem registerPoly_xor (r r' : BitVec w) : registerPoly (r ^^^ r') = registerPoly r + registerPoly r' := by
  ext k
  rw [coeff_add, registerPoly_coeff, registerPoly_coeff, registerPoly_coeff, BitVec.getLsbD_xor]
  cases r.getLsbD k <;> cases r'.getLsbD k <;> decide

/-- The next bit coming in below is multiplication by `x` plus that bit, when no bit leaves the register above. -/
theorem registerPoly_shiftIn (r : BitVec (d + 1)) (b : Bool) (hr : r.getLsbD d = false) :
    registerPoly ((r <<< 1) ||| (BitVec.ofBool b).setWidth (d + 1)) =
      registerPoly r * X + (if b = true then 1 else 0) := by
  ext k
  cases k with
  | zero => cases b <;> simp
  | succ k =>
    have hb : (if b = true then (1 : Polynomial (ZMod 2)) else 0).coeff (k + 1) = 0 := by
      cases b <;> simp [coeff_one]
    have hbit : ((r <<< 1) ||| (BitVec.ofBool b).setWidth (d + 1)).getLsbD (k + 1) = r.getLsbD k := by
      rcases Nat.lt_trichotomy k d with hk | rfl | hk
      · simp [-BitVec.getLsbD_eq_getElem, hk]
      · simp [-BitVec.getLsbD_eq_getElem, hr]
      · rw [BitVec.getLsbD_of_ge r k hk, BitVec.getLsbD_of_ge _ (k + 1) (by omega)]
    rw [coeff_add, coeff_mul_X, hb, add_zero, registerPoly_coeff, registerPoly_coeff, hbit]

/-- With its top bit clear a register has degree below that bit. -/
theorem registerPoly_degree_lt (r : BitVec (d + 1)) (hr : r.getLsbD d = false) : (registerPoly r).degree < d := by
  rw [degree_lt_iff_coeff_zero]
  intro k hk
  rcases hk.eq_or_lt with rfl | hk
  · rw [registerPoly_coeff, hr]; rfl
  · rw [registerPoly_coeff, BitVec.getLsbD_of_ge r k hk]; rfl

theorem registerPoly_degree_le (r : BitVec (d + 1)) : (registerPoly r).degree ≤ d := by
  rw [degree_le_iff_coeff_zero]
  intro k hk
  rw [registerPoly_coeff, BitVec.getLsbD_of_ge r k (by exact_mod_cast hk)]; rfl

theorem registerPoly_coeff_top (r : BitVec (d + 1)) (hr : r.getLsbD d = true) : (registerPoly r).coeff d = 1 := by
  rw [registerPoly_coeff, hr]; rfl

theorem registerPoly_monic (r : BitVec (d + 1)) (hr : r.getLsbD d = true) : (registerPoly r).Monic :=
  monic_of_degree_le d (registerPoly_degree_le r) (registerPoly_coeff_top r hr)

theorem registerPoly_degree (r : BitVec (d + 1)) (hr : r.getLsbD d = true) : (registerPoly r).degree = d :=
  le_antisymm (registerPoly_degree_le r) (le_degree_of_ne_zero (by simp [registerPoly_coeff_top r hr]))

end Registers

/-- The constants divide with the register's top bit as leading bit: `TOP` tests it and the polynomial has it set (R53, R54). -/
structure IsDivisor {d : Nat} (c : Consts (d + 1)) : Prop where
  top_eq : c.top = BitVec.twoPow (d + 1) d
  lead : c.poly.getLsbD d = true

theorem isDivisor_crc7 : IsDivisor (d := 7) crc7Const := ⟨rfl, rfl⟩

theorem isDivisor_crc16 : IsDivisor (d := 16) crc16Const := ⟨rfl, rfl⟩

section LongDivision

variable {d : Nat} {c : Consts (d + 1)}

/-- A division step is multiplication by `x` plus the next bit, up to a multiple of the divisor. -/
theorem divideStep_congr (r : BitVec (d + 1)) (b : Bool) (hr : r.getLsbD d = false) :
    registerPoly c.poly ∣ registerPoly r * X + (if b = true then 1 else 0) - registerPoly (divideStep c r b) := by
  rw [divideStep, ← registerPoly_shiftIn r b hr]
  split
  · simp [registerPoly_xor]
  · simp

variable (hc : IsDivisor c)
include hc

/-- The test against `TOP` reads the leading bit. -/
theorem and_top_ne_zero_iff (t : BitVec (d + 1)) : t &&& c.top ≠ 0#(d + 1) ↔ t.getLsbD d = true := by
  rw [hc.top_eq, BitVec.and_twoPow]
  have hbit : BitVec.twoPow (d + 1) d ≠ 0#(d + 1) := fun h => by simpa using congrArg (·.getLsbD d) h
  cases t.getLsbD d <;> simp [hbit]

/-- A division step leaves the leading bit clear: the divisor, which has it, is subtracted exactly when it is set. -/
theorem divideStep_top (r : BitVec (d + 1)) (b : Bool) : (divideStep c r b).getLsbD d = false := by
  rw [divideStep]
  split
  next h => rw [BitVec.getLsbD_xor, hc.lead, (and_top_ne_zero_iff hc _).1 h]; rfl
  next h => exact Bool.eq_false_iff.2 fun ht => h ((and_top_ne_zero_iff hc _).2 ht)

theorem longDivide_top (bits : List Bool) : (longDivide c bits).getLsbD d = false := by
  induction bits using List.reverseRecOn with
  | nil => simp [longDivide]
  | append_singleton bits b _ => rw [longDivide_append_singleton]; exact divideStep_top hc _ b

/-- The register and the bits read so far are congruent modulo the divisor. -/
theorem longDivide_congr (bits : List Bool) : registerPoly c.poly ∣ bitsPoly bits - registerPoly (longDivide c bits) := by
  induction bits using List.reverseRecOn with
  | nil => simp [bitsPoly, longDivide, registerPoly]
  | append_singleton bits b ih =>
    rw [longDivide_append_singleton, bitsPoly_append_singleton]
    have hstep := divideStep_congr (c := c) (longDivide c bits) b (longDivide_top hc bits)
    convert dvd_add (ih.mul_right X) hstep using 1
    ring

/-- Long division gives the remainder: a register of lower degree than the divisor, congruent to the dividend. -/
theorem registerPoly_longDivide (bits : List Bool) :
    registerPoly (longDivide c bits) = bitsPoly bits %ₘ registerPoly c.poly := by
  have hmonic := registerPoly_monic c.poly hc.lead
  have hdeg : (registerPoly (longDivide c bits)).degree < (registerPoly c.poly).degree :=
    (registerPoly_degree_lt _ (longDivide_top hc bits)).trans_eq (registerPoly_degree _ hc.lead).symm
  rw [modByMonic_eq_of_dvd_sub hmonic (longDivide_congr hc bits), (modByMonic_eq_self_iff hmonic).2 hdeg]

end LongDivision

/-- A register's polynomial is the sum over its set bits. -/
theorem registerPoly_eq_sum_filter {w : Nat} (r : BitVec w) :
    registerPoly r = ∑ k ∈ (Finset.range w).filter (r.getLsbD · = true), X ^ k :=
  (Finset.sum_filter _ _).symm

/-- R53: the CRC7 polynomial. -/
theorem registerPoly_crc7 : registerPoly crc7Const.poly = X ^ 7 + X ^ 3 + 1 := by
  have hbits : (Finset.range 8).filter (crc7Const.poly.getLsbD · = true) = {7, 3, 0} := by decide
  rw [registerPoly_eq_sum_filter, hbits]
  simp [add_assoc]

/-- R53: the CRC16 polynomial. -/
theorem registerPoly_crc16 : registerPoly crc16Const.poly = X ^ 16 + X ^ 12 + X ^ 5 + 1 := by
  have hbits : (Finset.range 17).filter (crc16Const.poly.getLsbD · = true) = {16, 12, 5, 0} := by decide
  rw [registerPoly_eq_sum_filter, hbits]
  simp [add_assoc]

/-- Settles O57: the general division theorem with the constants of each engine. -/
theorem longDivisionIsPolynomialRemainder : Obligations.LongDivisionIsPolynomialRemainder := by
  intro bits
  rw [← registerPoly_crc7, ← registerPoly_crc16]
  exact ⟨registerPoly_longDivide isDivisor_crc7 bits, registerPoly_longDivide isDivisor_crc16 bits⟩

end Sys2Proof.Proofs.Division
end

section
/-! PROOFS. The family 10_state, first part: reads of a message memory, and the seeds an engine takes from it. -/

namespace Sys2Proof.Proofs.Reads

open Sys2Proof.Machine Sys2Proof.Laws

variable {w : Nat}

/-- A memory reads a byte exactly at the addresses it lists. -/
theorem read_isSome_iff (m : Memory) (k : Nat) : (m.read k).isSome = true ↔ k ∈ m.map Prod.fst := by
  induction m with
  | nil => simp [Memory.read]
  | cons cell rest ih =>
    by_cases hk : k = cell.1
    · simp [Memory.read, hk]
    · simpa [Memory.read, hk] using ih

theorem ofBytesFrom_read (bs : List Byte) : ∀ a k, (Memory.ofBytesFrom a bs).read (a + k) = bs[k]? := by
  induction bs with
  | nil => intro a k; simp [Memory.ofBytesFrom, Memory.read]
  | cons b bs ih =>
    intro a k
    cases k with
    | zero => simp [Memory.ofBytesFrom, Memory.read]
    | succ k => simpa [Memory.ofBytesFrom, Memory.read, Nat.add_assoc, Nat.add_comm 1 k] using ih (a + 1) k

/-- R30: the memory of a message reads byte `k` of the message at address `k`, and nothing anywhere else. -/
theorem ofBytes_read (bs : List Byte) (k : Nat) : (Memory.ofBytes bs).read k = bs[k]? := by
  simpa [Memory.ofBytes] using ofBytesFrom_read bs 0 k

theorem bindMessage_bound (bs : List Byte) (e : Engine w) : (bindMessage bs e).MessageBound := by
  simp [Engine.MessageBound, Memory.ofBytes, ofBytesFrom_keys, List.range_eq_range']

/-- R35: a read below `n` of a contiguous message gives a byte. -/
theorem memRead_ok_of_lt {e : Engine w} (hbound : e.MessageBound) {k : Nat} (hk : k < e.n) : ∃ b, memRead e k = .ok b := by
  have hlisted : k ∈ e.msg.map Prod.fst := by rw [hbound]; exact List.mem_range.2 hk
  obtain ⟨b, hb⟩ := Option.isSome_iff_exists.1 ((read_isSome_iff e.msg k).2 hlisted)
  exact ⟨b, by simp only [memRead, if_pos hk, hb]⟩

/-- R35: a read from `n` on raises OutOfRange. -/
theorem memRead_error_of_le {e : Engine w} {k : Nat} (hk : e.n ≤ k) : memRead e k = .error ⟨k⟩ :=
  if_neg (Nat.not_lt.2 hk)

/-- The bit extraction succeeds when its byte does. -/
theorem extractBit_ok_of_lt {e : Engine w} (hbound : e.MessageBound) {s i : Nat} (hk : byteIndex s i < e.n) :
    ∃ b, extractBit s e i = .ok b := by
  obtain ⟨b, hb⟩ := memRead_ok_of_lt hbound hk
  exact ⟨_, by simp only [extractBit, hb]; rfl⟩

/-- R131: the CRC7 seed exists exactly when there is a byte. -/
theorem seedValue7_ok_iff {e : Engine 8} (hbound : e.MessageBound) : (∃ v, seedValue7 e = .ok v) ↔ 1 ≤ e.n := by
  refine ⟨fun ⟨v, hv⟩ => ?_, fun hn => memRead_ok_of_lt hbound hn⟩
  by_contra hn
  rw [seedValue7, memRead_error_of_le (by omega)] at hv
  cases hv

/-- R131: the CRC16 seed exists exactly when there are three bytes: its last read is of byte 2. -/
theorem seedValue16_ok_iff {e : Engine 17} (hbound : e.MessageBound) : (∃ v, seedValue16 e = .ok v) ↔ 3 ≤ e.n := by
  constructor
  · rintro ⟨v, hv⟩
    by_contra hn
    rw [seedValue16, memRead_error_of_le (k := 2) (by omega)] at hv
    split at hv
    · cases hv
    · split at hv <;> cases hv
  · intro hn
    obtain ⟨b0, h0⟩ := memRead_ok_of_lt hbound (k := 0) (by omega)
    obtain ⟨b1, h1⟩ := memRead_ok_of_lt hbound (k := 1) (by omega)
    obtain ⟨b2, h2⟩ := memRead_ok_of_lt hbound (k := 2) (by omega)
    exact ⟨seedWord16 b0 b1 b2, by simp only [seedValue16, h0, h1, h2]⟩

end Sys2Proof.Proofs.Reads
end

section
/-! PROOFS. The family 10_state, second part: one iteration of an engine as the composition of its four sub-steps, and
the control word bit by bit. -/

namespace Sys2Proof.Proofs.Iteration

open Sys2Proof.Machine Sys2Proof.Laws

section Engines

variable {w : Nat} (c : Consts w) {e : Engine w}

theorem subFetch_of_not_run (h : e.ph ≠ .run) : subFetch c e = e := if_neg fun hr => h hr.1
theorem subReduce_of_not_run (h : e.ph ≠ .run) : subReduce c e = e := if_neg fun hr => h hr.1
theorem subStop_of_not_run (h : e.ph ≠ .run) : subStop e = e := if_neg fun hr => h hr.1
theorem subShift_of_not_run (h : e.ph ≠ .run) : subShift c e = e := if_neg fun hr => h hr.1

theorem subFetch_of_not_condF (h : condF c e = false) : subFetch c e = e := if_neg (by simp [h])
theorem subReduce_of_not_condX (h : condX c e = false) : subReduce c e = e := if_neg (by simp [h])
theorem subStop_of_not_condT (h : condT e = false) : subStop e = e := if_neg (by simp [h])
theorem subShift_of_condT (h : condT e = true) : subShift c e = e := if_neg (by simp [h])

theorem subFetch_ph (e : Engine w) : (subFetch c e).ph = e.ph ∨ (subFetch c e).ph = .fault := by
  rcases subFetch_cases c e with ⟨_, h⟩ | ⟨_, _, ⟨_, _, h⟩ | ⟨_, _, h⟩⟩ <;> simp [h]

/-- R73: FETCH "touches only bit 0". -/
theorem subFetch_getLsbD (e : Engine w) {k : Nat} (hk : k ≠ 0) : (subFetch c e).r.getLsbD k = e.r.getLsbD k := by
  rcases subFetch_cases c e with ⟨_, h⟩ | ⟨_, _, ⟨b, _, h⟩ | ⟨_, _, h⟩⟩
  · rw [h]
  · have hb : b.getLsbD k = false := BitVec.getLsbD_of_ge b k (by omega)
    rw [h, BitVec.getLsbD_or, BitVec.getLsbD_setWidth, hb, Bool.and_false, Bool.or_false]
  · rw [h, takeOutOfRange_r]

/-- A SEED that takes OutOfRange writes neither `R` nor `I` (R134). -/
theorem subSeed_of_fault (seed : Except OutOfRange (BitVec w)) (e : Engine w) (h : (subSeed seed e).ph = .fault) :
    (subSeed seed e).r = e.r ∧ (subSeed seed e).i = e.i := by
  rcases subSeed_cases seed e with ⟨_, _, hs⟩ | ⟨_, _, hs⟩
  · rw [hs] at h; cases h
  · rw [hs]; exact ⟨rfl, rfl⟩

/-- One iteration of an engine (R76, R96): sub-steps a, b, then c or d. -/
def iterate (c : Consts w) (e : Engine w) : Engine w := subShift c (subStop (subReduce c (subFetch c e)))

@[simp] theorem iterate_n (e : Engine w) : (iterate c e).n = e.n := by simp [iterate]
@[simp] theorem iterate_msg (e : Engine w) : (iterate c e).msg = e.msg := by simp [iterate]

/-- R142: an engine not in RUN does nothing. -/
theorem iterate_of_not_run (h : e.ph ≠ .run) : iterate c e = e := by
  rw [iterate, subFetch_of_not_run c h, subReduce_of_not_run c h, subStop_of_not_run h, subShift_of_not_run c h]

/-- FETCH that does not fault writes the register only, REDUCE too. -/
theorem subReduce_subFetch_of_run (hrun : (subFetch c e).ph = .run) :
    subReduce c (subFetch c e) = { e with r := (subReduce c (subFetch c e)).r } := by
  have hph : e.ph = .run := by
    by_contra h
    exact h (subFetch_of_not_run c h ▸ hrun)
  have hph' : (subReduce c (subFetch c e)).ph = .run := by rw [subReduce_ph, hrun]
  have hi : (subReduce c (subFetch c e)).i = e.i := by simp
  have hn : (subReduce c (subFetch c e)).n = e.n := by simp
  have hmsg : (subReduce c (subFetch c e)).msg = e.msg := by simp
  generalize subReduce c (subFetch c e) = b at *
  cases b; cases e; simp_all

/-- The last iteration: STOP, after FETCH that does not fault. -/
theorem iterate_of_last (hrun : (subFetch c e).ph = .run) (hT : 8 * e.n ≤ e.i + 1) :
    iterate c e = { e with r := (subReduce c (subFetch c e)).r, ph := .done } := by
  have hbT : condT (subReduce c (subFetch c e)) = true := by simpa [condT_true_iff] using hT
  have hbrun : (subReduce c (subFetch c e)).ph = .run := by rw [subReduce_ph, hrun]
  have hstop : subStop (subReduce c (subFetch c e)) = { subReduce c (subFetch c e) with ph := .done } :=
    if_pos ⟨hbrun, hbT⟩
  rw [iterate, hstop, subShift_of_not_run c (by simp), subReduce_subFetch_of_run c hrun]

/-- Every other iteration: SHIFT, after FETCH that does not fault. -/
theorem iterate_of_not_last (hrun : (subFetch c e).ph = .run) (hT : e.i + 1 < 8 * e.n) :
    iterate c e = { e with r := ((subReduce c (subFetch c e)).r <<< 1) &&& c.mask, i := e.i + 1 } := by
  have hbT : condT (subReduce c (subFetch c e)) = false := by simpa [condT_false_iff] using hT
  have hbrun : (subReduce c (subFetch c e)).ph = .run := by rw [subReduce_ph, hrun]
  rw [iterate, subStop_of_not_condT hbT, subShift, if_pos ⟨hbrun, hbT⟩, subReduce_subFetch_of_run c hrun]

/-! ### The control word -/

theorem testBit_three_bits (a b d : Bool) :
    (4 * a.toNat + 2 * b.toNat + d.toNat).testBit 2 = a ∧ (4 * a.toNat + 2 * b.toNat + d.toNat).testBit 1 = b ∧
      (4 * a.toNat + 2 * b.toNat + d.toNat).testBit 0 = d := by
  revert a b d; decide

theorem controlWord_testBit_two (e : Engine w) : (controlWord c e).testBit 2 = condF c e :=
  (testBit_three_bits _ _ _).1

theorem controlWord_testBit_one (e : Engine w) : (controlWord c e).testBit 1 = condX c (subFetch c e) :=
  (testBit_three_bits _ _ _).2.1

theorem controlWord_testBit_zero (e : Engine w) : (controlWord c e).testBit 0 = condT e :=
  (testBit_three_bits _ _ _).2.2

/-- A row that the control word leaves out would do nothing (R52), so the selected sub-steps are all four in order. -/
theorem selectedSubSteps_controlWord (e : Engine w) : selectedSubSteps c (controlWord c e) e = iterate c e := by
  have hF : (if condF c e = true then subFetch c e else e) = subFetch c e := by
    split
    next => rfl
    next h => exact (subFetch_of_not_condF c (by simpa using h)).symm
  have hX (a : Engine w) : (if condX c a = true then subReduce c a else a) = subReduce c a := by
    split
    next => rfl
    next h => exact (subReduce_of_not_condX c (by simpa using h)).symm
  have hT (b : Engine w) : (if condT b = true then subStop b else subShift c b) = subShift c (subStop b) := by
    split
    next h => exact (subShift_of_condT c (by simpa [condT_true_iff] using h)).symm
    next h => rw [subStop_of_not_condT (by simpa using h)]
  have hTe : condT e = condT (subReduce c (subFetch c e)) := by simp [condT, Engine.bitLength]
  simp only [selectedSubSteps, controlWord_testBit_two, controlWord_testBit_one, controlWord_testBit_zero]
  rw [hF, hX, hTe, hT, iterate]

end Engines

/-- Settles O32: `F` and `T` as integers, and `X` read from `R` at entry, which FETCH leaves alone above bit 0. -/
theorem controlWordIsTheThreeConditions : Obligations.ControlWordIsTheThreeConditions := by
  constructor
  · intro e
    rw [controlWord_testBit_two, controlWord_testBit_one, controlWord_testBit_zero, condF_true_iff, condX_crc7,
      subFetch_getLsbD _ _ (by decide), condT_true_iff, show crc7Const.k = 8 from rfl]
    exact ⟨by omega, Iff.rfl, by omega, controlWord_lt _ _⟩
  · intro e
    rw [controlWord_testBit_two, controlWord_testBit_one, controlWord_testBit_zero, condF_true_iff, condX_crc16,
      subFetch_getLsbD _ _ (by decide), condT_true_iff, show crc16Const.k = 16 from rfl]
    exact ⟨by omega, Iff.rfl, by omega, controlWord_lt _ _⟩

end Sys2Proof.Proofs.Iteration
end

section
/-! PROOFS. The family 10_state, third part: the invariant of one engine, proved once for constants and a seed that fit
together, and kept by START, by an iteration and by reset. -/

namespace Sys2Proof.Proofs.EngineInvariant

open Sys2Proof.Machine Sys2Proof.Laws Sys2Proof.Proofs.Reads Sys2Proof.Proofs.Iteration Sys2Proof.Proofs.Division

/-- The constants of an engine and its seed fit together: the top bit of the register leads the polynomial, FETCH ends
with the message (R18, R36), and SEED succeeds exactly from the minimum length on (R131). -/
structure IsEngine {d : Nat} (c : Consts (d + 1)) (seed : Engine (d + 1) → Except OutOfRange (BitVec (d + 1))) : Prop
    extends IsDivisor c where
  k_eq : c.k = 8 * c.s
  minBytes_pos : 0 < c.minBytes
  seed_ok_iff : ∀ e : Engine (d + 1), e.MessageBound → ((∃ v, seed e = .ok v) ↔ c.minBytes ≤ e.n)

theorem isEngine_crc7 : IsEngine (d := 7) crc7Const seedValue7 where
  toIsDivisor := isDivisor_crc7
  k_eq := rfl
  minBytes_pos := by decide
  seed_ok_iff _ := seedValue7_ok_iff

theorem isEngine_crc16 : IsEngine (d := 16) crc16Const seedValue16 where
  toIsDivisor := isDivisor_crc16
  k_eq := rfl
  minBytes_pos := by decide
  seed_ok_iff _ := seedValue16_ok_iff

/-- The engine of reset meets the invariant: it is IDLE, with the empty message (log 3). -/
theorem reset_inv {w : Nat} (c : Consts w) : (Engine.reset w).Inv c :=
  ⟨rfl, rfl, by simp, by simp, by simp⟩

section Generic

variable {d : Nat} {c : Consts (d + 1)} {seed : Engine (d + 1) → Except OutOfRange (BitVec (d + 1))}
  (hc : IsEngine c seed) {e : Engine (d + 1)}
include hc

/-- R81, R101: after REDUCE in RUN the leading bit is 0. -/
theorem subReduce_and_top (hrun : e.ph = .run) : (subReduce c e).r &&& c.top = 0#(d + 1) := by
  by_contra hne
  have hlead := (and_top_ne_zero_iff hc.toIsDivisor _).1 hne
  rcases subReduce_cases c e with ⟨hnot, h⟩ | ⟨_, hX, h⟩
  · exact hnot ⟨hrun, by rw [h] at hne; simpa [condX] using hne⟩
  · have hlead' : e.r.getLsbD d = true := (and_top_ne_zero_iff hc.toIsDivisor _).1 (by simpa [condX] using hX)
    rw [h, BitVec.getLsbD_xor, hlead', hc.lead] at hlead
    cases hlead

/-- R132: on a contiguous message FETCH does not fault. -/
theorem subFetch_run_of_bound (hbound : e.MessageBound) (hrun : e.ph = .run) : (subFetch c e).ph = .run := by
  rcases subFetch_cases c e with ⟨_, h⟩ | ⟨_, hF, ⟨_, _, h⟩ | ⟨x, hx, _⟩⟩
  · rw [h, hrun]
  · rw [h]; exact hrun
  · have hk : byteIndex c.s e.i < e.n := by
      have hlt := (condF_true_iff c e).1 hF
      rw [hc.k_eq] at hlt
      unfold byteIndex
      omega
    obtain ⟨b, hb⟩ := extractBit_ok_of_lt hbound hk
    cases hx.symm.trans hb

/-- START on a long enough message: the engine runs from iteration 0. -/
theorem startEngine_of_le (msg : List Byte) (e : Engine (d + 1)) (hn : c.minBytes ≤ msg.length) :
    (startEngine seed msg e).ph = .run ∧ (startEngine seed msg e).i = 0 := by
  obtain ⟨v, hv⟩ := (hc.seed_ok_iff _ (bindMessage_bound msg e)).2 hn
  rw [startEngine, hv]
  exact ⟨rfl, rfl⟩

/-- START on a shorter one: OutOfRange is taken. -/
theorem startEngine_of_lt (msg : List Byte) (e : Engine (d + 1)) (hn : msg.length < c.minBytes) :
    startEngine seed msg e = takeOutOfRange (bindMessage msg e) := by
  rcases subSeed_cases (seed (bindMessage msg e)) (bindMessage msg e) with ⟨v, hv, _⟩ | ⟨_, _, h⟩
  · exact absurd ((hc.seed_ok_iff _ (bindMessage_bound msg e)).1 ⟨v, hv⟩) (Nat.not_le.2 hn)
  · exact h

end Generic

section Start

variable {w : Nat} (seed : Engine w → Except OutOfRange (BitVec w)) (msg : List Byte) (e : Engine w)

@[simp] theorem startEngine_n : (startEngine seed msg e).n = msg.length := by simp [startEngine]
@[simp] theorem startEngine_msg : (startEngine seed msg e).msg = Memory.ofBytes msg := by simp [startEngine]

theorem startEngine_bound : (startEngine seed msg e).MessageBound := by
  simpa [Engine.MessageBound] using bindMessage_bound msg e

/-- A START that takes OutOfRange writes neither `R` nor `I` (R134). -/
theorem startEngine_of_fault (h : (startEngine seed msg e).ph = .fault) :
    (startEngine seed msg e).r = e.r ∧ (startEngine seed msg e).i = e.i :=
  subSeed_of_fault _ (bindMessage msg e) h

end Start

section Kept

variable {d : Nat} {c : Consts (d + 1)} {seed : Engine (d + 1) → Except OutOfRange (BitVec (d + 1))}
  (hc : IsEngine c seed) {e : Engine (d + 1)}
include hc

/-- START gives the invariant, whatever the engine was. -/
theorem startEngine_inv (msg : List Byte) (e : Engine (d + 1)) :
    (startEngine seed msg e).Inv c := by
  refine ⟨?_, startEngine_bound seed msg e, ?_⟩
  · rw [startEngine_msg]; exact ofBytes_wf msg
  rcases Nat.lt_or_ge msg.length c.minBytes with hn | hn
  · rw [startEngine_of_lt hc msg e hn]
    simpa using hn
  · obtain ⟨hph, hi⟩ := startEngine_of_le hc msg e hn
    have hpos := hc.minBytes_pos
    refine ⟨fun _ => ⟨by simpa using hn, ?_, fun h => absurd hi h⟩, by simp [hph], by simp [hph]⟩
    rw [hi, Engine.bitLength, startEngine_n]
    omega

/-- An iteration keeps the invariant: the last one ends with the leading bit clear (R80, R100), every other one shifts a 0
into `R[0]` (R79, R99). -/
theorem iterate_inv (h : e.Inv c) : (iterate c e).Inv c := by
  by_cases hrun : e.ph = .run
  swap
  · rwa [iterate_of_not_run c hrun]
  obtain ⟨hwf, hbound, hR, -, -⟩ := h
  obtain ⟨hn, hi, -⟩ := hR hrun
  have hfetch := subFetch_run_of_bound hc hbound hrun
  rcases Nat.lt_or_ge (e.i + 1) (8 * e.n) with hT | hT
  · rw [iterate_of_not_last c hfetch hT]
    refine ⟨hwf, hbound, fun _ => ⟨hn, hT, fun _ => ?_⟩, ?_, ?_⟩
    · simp [-BitVec.getLsbD_eq_getElem]
    · simp [hrun]
    · simp [hrun]
  · rw [iterate_of_last c hfetch hT]
    refine ⟨hwf, hbound, by simp, fun _ => ⟨hn, Nat.le_antisymm hi hT, ?_⟩, by simp⟩
    exact subReduce_and_top hc hfetch

/-- An iteration that is not the last goes on running and counts. -/
theorem iterate_counts (h : e.Inv c) (hrun : e.ph = .run) (hT : e.i + 1 < 8 * e.n) :
    (iterate c e).ph = .run ∧ (iterate c e).i = e.i + 1 := by
  obtain ⟨-, hbound, -⟩ := h
  rw [iterate_of_not_last c (subFetch_run_of_bound hc hbound hrun) hT]
  exact ⟨hrun, rfl⟩

/-- `k` iterations that do not reach the last bit go on running and count `k` (R14). -/
theorem iterate_iterate_counts (k : Nat) (h : e.Inv c) (hrun : e.ph = .run) (hk : e.i + k < 8 * e.n) :
    ((iterate c)^[k] e).ph = .run ∧ ((iterate c)^[k] e).i = e.i + k := by
  induction k generalizing e with
  | zero => exact ⟨hrun, rfl⟩
  | succ k ih =>
    obtain ⟨hrun', hi'⟩ := iterate_counts hc h hrun (by omega)
    rw [Function.iterate_succ_apply]
    obtain ⟨hrun'', hi''⟩ := ih (iterate_inv hc h) hrun' (by rw [hi', iterate_n]; omega)
    exact ⟨hrun'', by rw [hi'', hi']; omega⟩

end Kept

end Sys2Proof.Proofs.EngineInvariant
end

section
/-! PROOFS. The family 10_state, fourth part: what the host reads of an engine. -/

namespace Sys2Proof.Proofs.ReadResult

open Sys2Proof.Machine Sys2Proof.Laws

section Rem

variable {w : Nat}

theorem remOut_of_done {e : Engine w} (h : e.ph = .done) : remOut e = some e.r := if_pos h
theorem remOut_of_not_done {e : Engine w} (h : e.ph ≠ .done) : remOut e = none := if_neg h

theorem setWidth_eq_ofNat_mod (r : BitVec w) (v : Nat) : r.setWidth v = BitVec.ofNat v (r.toNat % 2 ^ v) := by
  apply BitVec.eq_of_toNat_eq
  simp

end Rem

theorem hostReadResult_crc7_of_done {s : State} (h : s.crc7.ph = .done) :
    hostReadResult .crc7 s = .next { s with
      reply := some (.result7 (BitVec.ofNat 7 (s.crc7.r.toNat % 128)) s.crc7.r) } := by
  simp only [hostReadResult, crcOut7, remOut_of_done h, Option.map_some, setWidth_eq_ofNat_mod, Nat.reducePow]

theorem hostReadResult_crc16_of_done {s : State} (h : s.crc16.ph = .done) :
    hostReadResult .crc16 s = .next { s with
      reply := some (.result16 (BitVec.ofNat 16 (s.crc16.r.toNat % 65536)) s.crc16.r) } := by
  simp only [hostReadResult, crcOut16, remOut_of_done h, Option.map_some, setWidth_eq_ofNat_mod, Nat.reducePow]

theorem hostReadResult_of_not_done {e : EngineId} {s : State} (h : s.phase e ≠ .done) :
    hostReadResult e s = .fault (.noValue e) := by
  cases e with
  | crc7 => simp only [hostReadResult, crcOut7, remOut_of_not_done h, Option.map_none]
  | crc16 => simp only [hostReadResult, crcOut16, remOut_of_not_done h, Option.map_none]

/-- Reading a result changes no engine. -/
theorem hostReadResult_engines {e : EngineId} {s t : State} (h : hostReadResult e s = .next t) :
    t.crc7 = s.crc7 ∧ t.crc16 = s.crc16 := by
  by_cases hd : s.phase e = .done
  · cases e with
    | crc7 => rw [hostReadResult_crc7_of_done hd] at h; cases h; exact ⟨rfl, rfl⟩
    | crc16 => rw [hostReadResult_crc16_of_done hd] at h; cases h; exact ⟨rfl, rfl⟩
  · rw [hostReadResult_of_not_done hd] at h; cases h

end Sys2Proof.Proofs.ReadResult
end

section
/-! PROOFS. The family 10_state, fifth part: what one step can do to each engine, said once for both; the invariant and
the rule of the phases outside RUN follow from it. -/

namespace Sys2Proof.Proofs.EngineMoves

open Sys2Proof.Machine Sys2Proof.Laws Sys2Proof.Proofs.Iteration Sys2Proof.Proofs.EngineInvariant
  Sys2Proof.Proofs.ReadResult

/-- The state after a turn of an engine. -/
def turned : EngineId → State → State
  | .crc7, s => { s with crc7 := iterate crc7Const s.crc7 }
  | .crc16, s => { s with crc16 := iterate crc16Const s.crc16 }

/-- Outside RUN an iteration changes nothing, so a turn is an iteration in every phase. -/
theorem engineTurn_eq (e : EngineId) (s : State) : engineTurn e s = .next (turned e s) := by
  cases e with
  | crc7 =>
    rw [engineTurn_crc7, selectedSubSteps_controlWord, turned]
    split
    next => rfl
    next h => rw [iterate_of_not_run _ h]
  | crc16 =>
    rw [engineTurn_crc16, selectedSubSteps_controlWord, turned]
    split
    next => rfl
    next h => rw [iterate_of_not_run _ h]

theorem idleTurn_eq (s : State) : ∃ e, idleTurn s = .next (turned e s) := by
  by_cases h : s.phase .crc7 = .run
  · exact ⟨.crc7, by rw [idleTurn, if_pos h, engineTurn_eq]⟩
  · exact ⟨.crc16, by rw [idleTurn, if_neg h, engineTurn_eq]⟩

/-! ### One step, seen from one engine -/

section Moves

variable {w : Nat}

/-- What a step can do to one engine, by the oldest entry of the inbox; `op` is the command bit that starts the engine. -/
inductive EngineMove (c : Consts w) (seed : Engine w → Except OutOfRange (BitVec w)) (op : BitVec 1) (inbox : List Event)
    (e e' : Engine w) : Prop
  /-- The engine does nothing. -/
  | kept (h : e' = e)
  /-- The engine has its turn. -/
  | iterated (h : e' = iterate c e)
  /-- The host starts the engine, which is not in RUN (R145). -/
  | started (msg : List Byte) (rest : List Event) (hin : inbox = .start op msg :: rest) (hidle : e.ph ≠ .run)
      (h : e' = startEngine seed msg e)
  /-- The host resets the block. -/
  | reset (rest : List Event) (hin : inbox = .reset :: rest) (h : e' = Engine.reset w)

/-- R142: outside RUN only START of the engine and reset change it. -/
theorem EngineMove.eq_of_not_run {c : Consts w} {seed : Engine w → Except OutOfRange (BitVec w)} {op : BitVec 1}
    {inbox : List Event} {e e' : Engine w} (hm : EngineMove c seed op inbox e e') (hph : e.ph ≠ .run)
    (hstart : ∀ msg rest, inbox ≠ .start op msg :: rest) (hreset : ∀ rest, inbox ≠ .reset :: rest) : e' = e := by
  cases hm with
  | kept h => exact h
  | iterated h => rw [h, iterate_of_not_run c hph]
  | started msg rest hin => exact absurd hin (hstart msg rest)
  | reset rest hin => exact absurd hin (hreset rest)

/-- Each of the four moves keeps the invariant of the engine. -/
theorem EngineMove.inv {d : Nat} {c : Consts (d + 1)} {seed : Engine (d + 1) → Except OutOfRange (BitVec (d + 1))}
    (hc : IsEngine c seed) {op : BitVec 1} {inbox : List Event} {e e' : Engine (d + 1)}
    (hm : EngineMove c seed op inbox e e') (hinv : e.Inv c) : e'.Inv c := by
  cases hm with
  | kept h => exact h ▸ hinv
  | iterated h => exact h ▸ iterate_inv hc hinv
  | started msg _ _ _ h => exact h ▸ startEngine_inv hc msg e
  | reset _ _ h => exact h ▸ reset_inv c

end Moves

/-- What a step does to the two engines. -/
abbrev EnginesMove (s t : State) : Prop :=
  EngineMove crc7Const seedValue7 0#1 s.inbox s.crc7 t.crc7 ∧
    EngineMove crc16Const seedValue16 1#1 s.inbox s.crc16 t.crc16

theorem enginesMove_of_eq {s t : State} (h : t.crc7 = s.crc7 ∧ t.crc16 = s.crc16) : EnginesMove s t :=
  ⟨.kept h.1, .kept h.2⟩

theorem enginesMove_turned (e : EngineId) (s s' : State) (h7 : s'.crc7 = s.crc7) (h16 : s'.crc16 = s.crc16) :
    EnginesMove s (turned e s') := by
  cases e with
  | crc7 => exact ⟨.iterated (by rw [← h7]; rfl), .kept h16⟩
  | crc16 => exact ⟨.kept h7, .iterated (by rw [← h16]; rfl)⟩

/-- A START that is not refused starts the engine its command bit names. -/
theorem enginesMove_start {s t : State} {op : BitVec 1} {msg : List Byte} {rest : List Event}
    (hin : s.inbox = .start op msg :: rest) (h : hostStart op msg { s with inbox := rest } = .next t) :
    EnginesMove s t := by
  obtain rfl | rfl := BitVec.eq_zero_or_eq_one op
  · rw [hostStart_zero] at h
    rcases exec_crc7_cases (presentOperand msg { s with inbox := rest }) with
      ⟨_, hx⟩ | ⟨_, _, hx⟩ | ⟨hph, _, hx⟩ <;> cases hx.symm.trans h
    exact ⟨.started msg rest hin hph rfl, .kept rfl⟩
  · rw [hostStart_one] at h
    rcases exec_crc16_cases (presentOperand msg { s with inbox := rest }) with
      ⟨_, hx⟩ | ⟨_, _, hx⟩ | ⟨hph, _, hx⟩ <;> cases hx.symm.trans h
    exact ⟨.kept rfl, .started msg rest hin hph rfl⟩

/-- What one step can do to the two engines. -/
theorem step_enginesMove {s t : State} (h : step s = .next t) : EnginesMove s t := by
  rcases step_cases s with ⟨op, msg, rest, hin, hs⟩ | ⟨e, rest, _, hs⟩ | ⟨e, rest, _, hs⟩ | ⟨rest, hin, hs⟩ |
    ⟨e, rest, _, hs⟩ | ⟨_, hs⟩
  · exact enginesMove_start hin (hs.symm.trans h)
  · cases hs.symm.trans h
    exact enginesMove_of_eq ⟨hostPoll_crc7 _ e, hostPoll_crc16 _ e⟩
  · have heq := hostReadResult_engines (hs.symm.trans h)
    exact enginesMove_of_eq heq
  · cases hs.symm.trans h
    exact ⟨.reset rest hin rfl, .reset rest hin rfl⟩
  · cases (hs.trans (engineTurn_eq e _)).symm.trans h
    exact enginesMove_turned e s _ rfl rfl
  · obtain ⟨e, he⟩ := idleTurn_eq s
    cases (hs.trans he).symm.trans h
    exact enginesMove_turned e s s rfl rfl

/-- Settles O39: each engine moves in one of four ways, and each way keeps its invariant. -/
theorem everyStepKeepsTheInvariant : Obligations.EveryStepKeepsTheInvariant := by
  intro s t ⟨h7, h16⟩ h
  obtain ⟨m7, m16⟩ := step_enginesMove h
  exact ⟨m7.inv isEngine_crc7 h7, m16.inv isEngine_crc16 h16⟩

/-- Settles O44: of the four moves of an engine outside RUN only START and reset change it. -/
theorem outsideRunOnlyStartAndResetChangeAnEngine : Obligations.OutsideRunOnlyStartAndResetChangeAnEngine := by
  intro s t h
  obtain ⟨m7, m16⟩ := step_enginesMove h
  exact ⟨m7.eq_of_not_run, m16.eq_of_not_run⟩

end Sys2Proof.Proofs.EngineMoves
end

section
/-! PROOFS. The family 10_state, sixth part: a run of START and turns of one engine. -/

namespace Sys2Proof.Proofs.Runs

open Sys2Proof.Machine Sys2Proof.Laws Sys2Proof.Proofs.Iteration Sys2Proof.Proofs.EngineInvariant
  Sys2Proof.Proofs.EngineMoves

theorem run_succ {s t : State} (k : Nat) (h : step s = .next t) :
    Host.Core.run Sys2Proof.core (k + 1) s = Host.Core.run Sys2Proof.core k t := by
  have hcore : Sys2Proof.core.step s = .next t := h
  simp only [Host.Core.run, hcore]

theorem step_turn {s : State} {e : EngineId} {rest : List Event} (h : s.inbox = .turn e :: rest) :
    step s = .next (turned e { s with inbox := rest }) := by
  rw [step_of_inbox h]
  exact engineTurn_eq e _

@[simp] theorem turned_inbox (e : EngineId) (s : State) : (turned e s).inbox = s.inbox := by cases e <;> rfl

/-- `k` turns of one engine in the inbox are `k` steps. -/
theorem run_turns (e : EngineId) (rest : List Event) (k : Nat) :
    ∀ s : State, s.inbox = List.replicate k (.turn e) ++ rest →
      Host.Core.run Sys2Proof.core k s = .next ((turned e)^[k] { s with inbox := rest }) := by
  induction k with
  | zero => rintro s rfl; rfl
  | succ k ih =>
    intro s hin
    rw [run_succ k (step_turn hin), ih _ (turned_inbox _ _), Function.iterate_succ_apply]
    cases e <;> rfl

theorem iterate_turned_inbox (e : EngineId) (k : Nat) (s : State) : ((turned e)^[k] s).inbox = s.inbox := by
  have h : Function.Semiconj State.inbox (turned e) id := turned_inbox e
  simpa using h.iterate_right k s

theorem iterate_turned_crc7 (k : Nat) (s : State) :
    ((turned .crc7)^[k] s).crc7 = (iterate crc7Const)^[k] s.crc7 := by
  have h : Function.Semiconj State.crc7 (turned .crc7) (iterate crc7Const) := fun _ => rfl
  exact h.iterate_right k s

theorem iterate_turned_crc16 (k : Nat) (s : State) :
    ((turned .crc16)^[k] s).crc16 = (iterate crc16Const)^[k] s.crc16 := by
  have h : Function.Semiconj State.crc16 (turned .crc16) (iterate crc16Const) := fun _ => rfl
  exact h.iterate_right k s

theorem step_start_crc7 {s : State} {msg : List Byte} {rest : List Event} (hin : s.inbox = .start 0#1 msg :: rest)
    (hph : s.crc7.ph ≠ .run) (hadm : admits s.cfg msg.length = true) :
    step s = .next { s with
      inbox := rest, operand := msg, reply := none, crc7 := startEngine seedValue7 msg s.crc7 } := by
  rw [step_of_inbox hin, perform, hostStart_zero]
  exact (if_neg hph).trans (if_pos hadm)

theorem step_start_crc16 {s : State} {msg : List Byte} {rest : List Event} (hin : s.inbox = .start 1#1 msg :: rest)
    (hph : s.crc16.ph ≠ .run) (hadm : admits s.cfg msg.length = true) :
    step s = .next { s with
      inbox := rest, operand := msg, reply := none, crc16 := startEngine seedValue16 msg s.crc16 } := by
  rw [step_of_inbox hin, perform, hostStart_one]
  exact (if_neg hph).trans (if_pos hadm)

/-- After START on a long enough message and fewer than `8n` iterations an engine runs, and `I` has counted them. -/
theorem iterate_startEngine_counts {d : Nat} {c : Consts (d + 1)}
    {seed : Engine (d + 1) → Except OutOfRange (BitVec (d + 1))} (hc : IsEngine c seed) (msg : List Byte)
    (e : Engine (d + 1)) (hn : c.minBytes ≤ msg.length) {k : Nat} (hk : k < 8 * msg.length) :
    ((iterate c)^[k] (startEngine seed msg e)).ph = .run ∧ ((iterate c)^[k] (startEngine seed msg e)).i = k := by
  obtain ⟨hrun, hi⟩ := startEngine_of_le hc msg e hn
  simpa [hi] using iterate_iterate_counts hc k (startEngine_inv hc msg e) hrun (by simpa [hi] using hk)

/-- Settles O48: START is one step, and `k` turns are `k` iterations of the started engine. -/
theorem engineStillRunsBeforeEightNTurns : Obligations.EngineStillRunsBeforeEightNTurns := by
  intro s msg k rest hadm hk
  constructor
  · intro hin hph hn
    obtain ⟨hrun, hi⟩ := iterate_startEngine_counts isEngine_crc7 msg s.crc7 hn hk
    refine ⟨_, (run_succ k (step_start_crc7 hin hph hadm)).trans (run_turns .crc7 rest k _ rfl), ?_, ?_, ?_⟩
    · rw [iterate_turned_crc7]; exact hrun
    · rw [iterate_turned_crc7]; exact hi
    · rw [iterate_turned_inbox]
  · intro hin hph hn
    obtain ⟨hrun, hi⟩ := iterate_startEngine_counts isEngine_crc16 msg s.crc16 hn hk
    refine ⟨_, (run_succ k (step_start_crc16 hin hph hadm)).trans (run_turns .crc16 rest k _ rfl), ?_, ?_, ?_⟩
    · rw [iterate_turned_crc16]; exact hrun
    · rw [iterate_turned_crc16]; exact hi
    · rw [iterate_turned_inbox]

end Sys2Proof.Proofs.Runs
end

section
/-! PROOFS. The family 10_state, seventh part: the frames of the rows. -/

namespace Sys2Proof.Proofs.Frames

open Sys2Proof.Machine Sys2Proof.Laws Sys2Proof.Proofs.Reads Sys2Proof.Proofs.Iteration
  Sys2Proof.Proofs.EngineInvariant Sys2Proof.Proofs.Scope

/-- What a CRC7 row leaves of the state around its engine. -/
theorem exec_crc7_rest {i : Instr} {s t : State} (hi : i.engine = .crc7) (h : exec i s = .next t) :
    t.crc16 = s.crc16 ∧ t.cfg = s.cfg ∧ t.operand = s.operand ∧ t.inbox = s.inbox ∧ t.reply = s.reply := by
  obtain ⟨e, rfl, -⟩ := (exec_actsOnlyOn_crc7 hi).next ⟨rfl, rfl, rfl⟩ h
  exact ⟨rfl, rfl, rfl, rfl, rfl⟩

/-- What a CRC16 row leaves of the state around its engine. -/
theorem exec_crc16_rest {i : Instr} {s t : State} (hi : i.engine = .crc16) (h : exec i s = .next t) :
    t.crc7 = s.crc7 ∧ t.cfg = s.cfg ∧ t.operand = s.operand ∧ t.inbox = s.inbox ∧ t.reply = s.reply := by
  obtain ⟨e, rfl, -⟩ := (exec_actsOnlyOn_crc16 hi).next ⟨rfl, rfl, rfl⟩ h
  exact ⟨rfl, rfl, rfl, rfl, rfl⟩

/-- The command that answers a next state has started its engine. -/
theorem exec_crc7_next {s t : State} (h : exec .crc7 s = .next t) :
    t.crc7 = startEngine seedValue7 s.operand s.crc7 := by
  rcases exec_crc7_cases s with ⟨_, hx⟩ | ⟨_, _, hx⟩ | ⟨_, _, hx⟩ <;> cases hx.symm.trans h
  rfl

/-- The command that answers a next state has started its engine. -/
theorem exec_crc16_next {s t : State} (h : exec .crc16 s = .next t) :
    t.crc16 = startEngine seedValue16 s.operand s.crc16 := by
  rcases exec_crc16_cases s with ⟨_, hx⟩ | ⟨_, _, hx⟩ | ⟨_, _, hx⟩ <;> cases hx.symm.trans h
  rfl

/-- Settles O26: the frame of each sub-step, row by row. -/
theorem crc7RowsFrame : Obligations.Crc7RowsFrame := by
  intro i s t hi h
  obtain ⟨h16, hcfg, hop, hin, hrep⟩ := exec_crc7_rest hi h
  refine ⟨h16, hcfg, hop, hin, hrep, ?_⟩
  cases i with
  | crc7 =>
    rw [exec_crc7_next h]
    simpa [ofBytes_read] using startEngine_of_fault seedValue7 s.operand s.crc7
  | crc7Seed => cases h; simpa using subSeed_of_fault _ s.crc7
  | crc7Fetch =>
    cases h
    simpa using ⟨subFetch_ph crc7Const s.crc7, fun k hk => subFetch_getLsbD crc7Const s.crc7 hk⟩
  | crc7Reduce => cases h; simp
  | crc7Stop => cases h; simp
  | crc7Shift => cases h; simp
  | crc16 | crc16Seed | crc16Fetch | crc16Reduce | crc16Stop | crc16Shift => cases hi

/-- Settles O27: the frame of each sub-step, row by row. -/
theorem crc16RowsFrame : Obligations.Crc16RowsFrame := by
  intro i s t hi h
  obtain ⟨h7, hcfg, hop, hin, hrep⟩ := exec_crc16_rest hi h
  refine ⟨h7, hcfg, hop, hin, hrep, ?_⟩
  cases i with
  | crc16 =>
    rw [exec_crc16_next h]
    simpa [ofBytes_read] using startEngine_of_fault seedValue16 s.operand s.crc16
  | crc16Seed => cases h; simpa using subSeed_of_fault _ s.crc16
  | crc16Fetch =>
    cases h
    simpa using ⟨subFetch_ph crc16Const s.crc16, fun k hk => subFetch_getLsbD crc16Const s.crc16 hk⟩
  | crc16Reduce => cases h; simp
  | crc16Stop => cases h; simp
  | crc16Shift => cases h; simp
  | crc7 | crc7Seed | crc7Fetch | crc7Reduce | crc7Stop | crc7Shift => cases hi

end Sys2Proof.Proofs.Frames
end

section
/-! PROOFS. The family 10_state, last part: the constants, the reset state and the outputs. -/

namespace Sys2Proof.Proofs.Outputs

open Sys2Proof.Machine Sys2Proof.Laws Sys2Proof.Proofs.EngineInvariant Sys2Proof.Proofs.ReadResult

/-- The bits of a register are known when those inside its width are. -/
theorem getLsbD_eq_of_forall_fin {w : Nat} {r : BitVec w} {p : Nat → Bool} (hin : ∀ k : Fin w, r.getLsbD k = p k)
    (hout : ∀ k, w ≤ k → p k = false) (k : Nat) : r.getLsbD k = p k := by
  rcases Nat.lt_or_ge k w with hk | hk
  · exact hin ⟨k, hk⟩
  · rw [BitVec.getLsbD_of_ge r k hk, hout k hk]

/-- Settles O5: the bits inside the width one by one, and none above it. -/
theorem hardwiredConstantsBitByBit : Obligations.HardwiredConstantsBitByBit := by
  refine ⟨?_, ?_, ?_, ?_, ?_, ?_, rfl, rfl, rfl, rfl, rfl, rfl⟩ <;>
    exact getLsbD_eq_of_forall_fin (by decide) fun k hk => decide_eq_false (by omega)

/-- Settles O6: the reset engines are IDLE, and the outputs are functions of the phase. -/
theorem resetIsIdleAndPresentsNoResult : Obligations.ResetIsIdleAndPresentsNoResult :=
  ⟨⟨rfl, rfl, rfl, rfl, rfl⟩, rfl, rfl, rfl, rfl, rfl⟩

/-- Settles O38: both engines are as at reset. -/
theorem resetMeetsTheInvariant : Obligations.ResetMeetsTheInvariant :=
  ⟨reset_inv crc7Const, reset_inv crc16Const⟩

/-- Settles O8: the step is the poll. -/
theorem pollReportsDoneAndErr : Obligations.PollReportsDoneAndErr := by
  intro s rest
  exact ⟨fun hin => step_of_inbox hin, fun hin => step_of_inbox hin⟩

/-- Settles O9: the step is the reading, which has a value in DONE only. -/
theorem resultIsReadInDoneOnly : Obligations.ResultIsReadInDoneOnly := by
  intro s rest
  refine ⟨fun hin => ?_, fun hin => ?_⟩ <;> rw [step_of_inbox hin]
  · exact ⟨fun hd => hostReadResult_crc7_of_done hd, fun hd => hostReadResult_of_not_done (e := .crc7) hd⟩
  · exact ⟨fun hd => hostReadResult_crc16_of_done hd, fun hd => hostReadResult_of_not_done (e := .crc16) hd⟩

end Sys2Proof.Proofs.Outputs
end

section
/-! PROOFS. The family 20_memory: what reading a bound message gives, the numbering of its bits, and that no step writes
it. -/

namespace Sys2Proof.Proofs.MessageMemory

open Sys2Proof.Machine Sys2Proof.Laws Sys2Proof.Proofs.Reads Sys2Proof.Proofs.Iteration
  Sys2Proof.Proofs.EngineMoves

/-! ### The bytes -/

theorem ofBytes_keys (msg : List Byte) : (Memory.ofBytes msg).map Prod.fst = List.range msg.length := by
  rw [Memory.ofBytes, ofBytesFrom_keys, List.range_eq_range']

/-- Settles O10: the addresses are consecutive from 0, and the byte at address `k` is found after `k` cells. -/
theorem messageMemoryHoldsItsBytes : Obligations.MessageMemoryHoldsItsBytes :=
  fun msg => ⟨ofBytes_keys msg, ofBytes_read msg⟩

theorem readByte_of_lt {msg : List Byte} {k : Nat} (hk : k < msg.length) : readByte msg k = .ok msg[k] := by
  simp [readByte, hk]

section Bound

variable {w : Nat} (msg : List Byte) (e : Engine w)

/-- An engine that START has bound reads the message: R35 at the level of the machine and of the functions agree. -/
theorem memRead_bindMessage (k : Nat) : memRead (bindMessage msg e) k = readByte msg k := by
  rcases Nat.lt_or_ge k msg.length with hk | hk
  · simp [memRead, readByte, ofBytes_read, hk]
  · rw [memRead_error_of_le (e := bindMessage msg e) hk]
    simp [readByte, hk]

theorem memRead_bindMessage_of_lt {k : Nat} (hk : k < msg.length) : memRead (bindMessage msg e) k = .ok msg[k] :=
  (memRead_bindMessage msg e k).trans (readByte_of_lt hk)

end Bound

/-- Settles O11: the read of a bound message is the read of the list, and from `n` on every read raises. -/
theorem memReadReturnsTheByteOrRaises : Obligations.MemReadReturnsTheByteOrRaises :=
  fun _ e msg _ => ⟨memRead_bindMessage_of_lt msg e, memRead_error_of_le (e := bindMessage msg e)⟩

/-! ### The bits -/

theorem bitOfByte_eq (b : Byte) (offset : Nat) : bitOfByte b offset = BitVec.ofBool (b.getLsbD offset) := by
  ext k hk
  obtain rfl : k = 0 := by omega
  simp [bitOfByte]

/-- R31: position `8q + j` is bit `7 - j` of byte `q`. -/
theorem bitPos_mul_add (msg : List Byte) (q : Nat) {j : Nat} (hj : j < 8) :
    bitPos msg (8 * q + j) = (msg.getD q 0#8).getLsbD (7 - j) := by
  rw [bitPos, show (8 * q + j) / 8 = q by omega, show (8 * q + j) % 8 = j by omega]

/-- R36: the offset is a shift within a byte. -/
theorem bitOffset_le (i : Nat) : bitOffset i ≤ 7 := by
  unfold bitOffset
  omega

/-- R36: the offset goes down from 7 to 0 while `i` goes up. -/
theorem bitOffset_eq_neg_emod (i : Nat) : (bitOffset i : Int) = (-(i : Int)) % 8 := by
  unfold bitOffset
  omega

/-- R37: the closed form of the extraction address. -/
theorem extraction_address (s : Nat) {i : Nat} (hi : 1 ≤ i) :
    8 * byteIndex s i + (7 - bitOffset i) = i + 8 * s - 1 := by
  unfold byteIndex bitOffset
  omega

/-- The bit extracted from a bound message is the message bit at the extraction address. -/
theorem extractBit_bindMessage {w : Nat} (msg : List Byte) (e : Engine w) {s i : Nat}
    (hk : byteIndex s i < msg.length) :
    extractBit s (bindMessage msg e) i =
      .ok (BitVec.ofBool (bitPos msg (8 * byteIndex s i + (7 - bitOffset i)))) := by
  have hoff : 7 - (7 - bitOffset i) = bitOffset i := Nat.sub_sub_self (bitOffset_le i)
  rw [bitPos_mul_add msg _ (by omega), hoff, List.getD_eq_getElem _ _ hk, ← bitOfByte_eq]
  simp only [extractBit, memRead_bindMessage_of_lt msg e hk]

/-- Settles O12: the closed form of R37, and a position below `8n` lies in a byte below `n`. -/
theorem extractedBitIsTheLookAheadPosition : Obligations.ExtractedBitIsTheLookAheadPosition := by
  intro w e msg s i hi
  have haddr := extraction_address s hi
  refine ⟨haddr, bitOffset_le i, bitOffset_eq_neg_emod i, fun hp => ?_⟩
  rw [← haddr] at hp ⊢
  exact extractBit_bindMessage msg e (by omega)

/-! ### The seeds -/

theorem seedValue7_bindMessage (e : Engine 8) (b0 : Byte) (tl : List Byte) :
    seedValue7 (bindMessage (b0 :: tl) e) = .ok b0 :=
  memRead_bindMessage_of_lt (b0 :: tl) e (k := 0) (by simp)

theorem seedValue16_bindMessage (e : Engine 17) (b0 b1 b2 : Byte) (tl : List Byte) :
    seedValue16 (bindMessage (b0 :: b1 :: b2 :: tl) e) = .ok (seedWord16 b0 b1 b2) := by
  simp [seedValue16, memRead_bindMessage, readByte]

/-- A byte moved up by at most 9 places still fits in 17 bits. -/
theorem toNat_setWidth_shiftLeft (b : Byte) {o : Nat} (ho : o ≤ 9) :
    (b.setWidth 17 <<< o).toNat = b.toNat <<< o := by
  have hlt : b.toNat <<< o < 2 ^ 17 :=
    (Nat.shiftLeft_lt b.isLt).trans_le (Nat.pow_le_pow_right (by decide) (by omega))
  rw [BitVec.toNat_shiftLeft, BitVec.toNat_setWidth_of_le (by decide), Nat.mod_eq_of_lt hlt]

theorem bitOfByte_toNat (b : Byte) (offset : Nat) : (bitOfByte b offset).toNat = (b.toNat >>> offset) &&& 1 := by
  simp [bitOfByte]

/-- R32, R55: the seed as a formula. -/
theorem seedWord16_toNat (b0 b1 b2 : Byte) :
    (seedWord16 b0 b1 b2).toNat = (b0.toNat <<< 9) ||| (b1.toNat <<< 1) ||| ((b2.toNat >>> 7) &&& 1) := by
  rw [seedWord16, BitVec.toNat_or, BitVec.toNat_or, toNat_setWidth_shiftLeft b0 (by decide),
    toNat_setWidth_shiftLeft b1 (by decide), BitVec.toNat_setWidth_of_le (by decide), bitOfByte_toNat]

theorem getLsbD_setWidth_shiftLeft (b : Byte) (o : Nat) {k : Nat} (hk : k < 17) :
    (b.setWidth 17 <<< o).getLsbD k = (decide (o ≤ k) && b.getLsbD (k - o)) := by
  have hk' : k - o < 17 := by omega
  simp [-BitVec.getLsbD_eq_getElem, hk, hk', ← decide_not]

theorem getLsbD_setWidth_bitOfByte (b : Byte) (offset : Nat) {k : Nat} (hk : k < 17) :
    ((bitOfByte b offset).setWidth 17).getLsbD k = (decide (k = 0) && b.getLsbD offset) := by
  simp [-BitVec.getLsbD_eq_getElem, bitOfByte_eq, hk]

/-- R32: `MSG[0]` lands in `R[16:9]`, `MSG[1]` in `R[8:1]`, bit 7 of `MSG[2]` in `R[0]`. -/
theorem seedWord16_getLsbD (b0 b1 b2 : Byte) {k : Nat} (hk : k < 17) :
    (seedWord16 b0 b1 b2).getLsbD k =
      if 9 ≤ k then b0.getLsbD (k - 9) else if 1 ≤ k then b1.getLsbD (k - 1) else b2.getLsbD 7 := by
  rw [seedWord16, BitVec.getLsbD_or, BitVec.getLsbD_or, getLsbD_setWidth_shiftLeft b0 9 hk,
    getLsbD_setWidth_shiftLeft b1 1 hk, getLsbD_setWidth_bitOfByte b2 7 hk]
  obtain h | h | rfl : 9 ≤ k ∨ (1 ≤ k ∧ k < 9) ∨ k = 0 := by omega
  · have hb1 : b1.getLsbD (k - 1) = false := BitVec.getLsbD_of_ge b1 (k - 1) (by omega)
    simp [-BitVec.getLsbD_eq_getElem, h, hb1, show k ≠ 0 by omega]
  · simp [-BitVec.getLsbD_eq_getElem, h, Nat.not_le.2 h.2, show k ≠ 0 by omega]
  · simp [-BitVec.getLsbD_eq_getElem]

/-- R32: `R[16 - p] = bitpos(p)`, byte by byte. -/
theorem seedWord16_bitPos (b0 b1 b2 : Byte) (tl : List Byte) {p : Nat} (hp : p < 17) :
    (seedWord16 b0 b1 b2).getLsbD (16 - p) = bitPos (b0 :: b1 :: b2 :: tl) p := by
  obtain ⟨q, j, hj, rfl⟩ : ∃ q j, j < 8 ∧ p = 8 * q + j := ⟨p / 8, p % 8, by omega, by omega⟩
  rw [bitPos_mul_add _ q hj, seedWord16_getLsbD _ _ _ (by omega)]
  obtain rfl | rfl | ⟨rfl, rfl⟩ : q = 0 ∨ q = 1 ∨ q = 2 ∧ j = 0 := by omega
  · rw [if_pos (by omega), show 16 - (8 * 0 + j) - 9 = 7 - j by omega]; rfl
  · rw [if_neg (by omega), if_pos (by omega), show 16 - (8 * 1 + j) - 1 = 7 - j by omega]; rfl
  · rfl

/-- Settles O13: the formulas of the seeds, and R31 for each of the bytes they are made of. -/
theorem seedHoldsTheFirstMessageBits : Obligations.SeedHoldsTheFirstMessageBits := by
  constructor
  · rintro e _ b0 tl rfl
    refine ⟨seedValue7_bindMessage e b0 tl, fun p hp => ?_⟩
    simpa using (bitPos_mul_add (b0 :: tl) 0 hp).symm
  · rintro e _ b0 b1 b2 tl rfl
    exact ⟨_, seedValue16_bindMessage e b0 b1 b2 tl, seedWord16_toNat b0 b1 b2,
      fun p hp => seedWord16_bitPos b0 b1 b2 tl hp⟩

/-! ### No step writes a message -/

/-- R38: of the four moves of an engine only START and reset write `N` and `MSG`. -/
theorem message_eq_of_not_start {w : Nat} {c : Consts w} {seed : Engine w → Except OutOfRange (BitVec w)}
    {op : BitVec 1} {inbox : List Event} {e e' : Engine w} (hm : EngineMove c seed op inbox e e')
    (hstart : ∀ msg rest, inbox ≠ .start op msg :: rest) (hreset : ∀ rest, inbox ≠ .reset :: rest) :
    e'.n = e.n ∧ e'.msg = e.msg := by
  cases hm with
  | kept h => rw [h]; exact ⟨rfl, rfl⟩
  | iterated h => rw [h]; exact ⟨iterate_n c e, iterate_msg c e⟩
  | started msg rest hin => exact absurd hin (hstart msg rest)
  | reset rest hin => exact absurd hin (hreset rest)

/-- Settles O45: each engine moves in one of four ways, and the two that a step may take here keep the message. -/
theorem messagesAreNeverWrittenByAStep : Obligations.MessagesAreNeverWrittenByAStep := by
  intro s t h hreset
  obtain ⟨m7, m16⟩ := step_enginesMove h
  constructor <;> intro hstart
  · obtain ⟨hn, hmsg⟩ := message_eq_of_not_start m7 hstart hreset
    exact ⟨hn, fun a => by rw [hmsg]⟩
  · obtain ⟨hn, hmsg⟩ := message_eq_of_not_start m16 hstart hreset
    exact ⟨hn, fun a => by rw [hmsg]⟩

end Sys2Proof.Proofs.MessageMemory
end

section
/-! PROOFS. The family 30_encoding, first part: a row tests one bit of the word, and a word and its unit determine each
other. -/

namespace Sys2Proof.Proofs.Encoding

/-! ### The rows -/

theorem mem_allInstrs (i : Instr) : i ∈ allInstrs := by cases i <;> decide

/-- The one bit of a word that a row tests (R51, R52): bits 2, 1, 0 for sub-steps a, b, c/d, and bit 0 of a command. -/
def testedBit (i : Instr) : Nat := 2 - i.place

/-- What a row demands of the bit it tests. -/
def demands (i : Instr) : Bool := (rowOf i).value != 0

theorem rowOf_mask (i : Instr) : (rowOf i).mask = 2 ^ testedBit i := by cases i <;> rfl

theorem rowOf_value (i : Instr) : (rowOf i).value = (demands i).toNat * 2 ^ testedBit i := by cases i <;> rfl

theorem testedBit_lt_wordBits (i : Instr) : testedBit i < wordBits i.context := by cases i <;> decide

theorem place_le_two (i : Instr) : i.place ≤ 2 := by cases i <;> decide

/-- Rows that test the same bit have the same place in a unit. -/
theorem place_eq_of_testedBit_eq {i j : Instr} (h : testedBit i = testedBit j) : i.place = j.place := by
  have hi := place_le_two i
  have hj := place_le_two j
  unfold testedBit at h
  omega

/-- The table gives no two rows of one context the same test. -/
theorem row_unique {i j : Instr} (hctx : i.context = j.context) (hbit : testedBit i = testedBit j)
    (hdem : demands i = demands j) : i = j := by
  have htable : ∀ i ∈ allInstrs, ∀ j ∈ allInstrs,
      i.context = j.context → testedBit i = testedBit j → demands i = demands j → i = j := by decide
  exact htable i (mem_allInstrs i) j (mem_allInstrs j) hctx hbit hdem

/-- Only the last row of a unit may demand a 0: `CRC7.SHIFT`, `CRC16.SHIFT` and the rows of command bit 0. -/
theorem testedBit_of_not_demands {i : Instr} (h : demands i = false) : testedBit i = 0 := by
  have htable : ∀ i ∈ allInstrs, demands i = false → testedBit i = 0 := by decide
  exact htable i (mem_allInstrs i) h

/-- R52: a word selects a row exactly when the bit the row tests is as the row demands. -/
theorem selects_iff {c : Context} {w : Nat} {i : Instr} :
    selects c w i = true ↔ i.context = c ∧ w.testBit (testedBit i) = demands i := by
  have hpos := Nat.two_pow_pos (testedBit i)
  rw [selects, rowOf_mask, rowOf_value, Nat.and_two_pow]
  cases w.testBit (testedBit i) <;> cases demands i <;> simp [hpos.ne]

/-! ### Decoding -/

/-- The rows a word selects, in the table's order. -/
def unitOf (c : Context) (w : Nat) : List Instr := allInstrs.filter (selects c w)

theorem decode_of_lt {c : Context} {w : Nat} (h : w < 2 ^ wordBits c) : decode c w = .ok (unitOf c w) := if_pos h

theorem decode_of_le {c : Context} {w : Nat} (h : 2 ^ wordBits c ≤ w) : decode c w = .error (.tooWide c w) :=
  if_neg (Nat.not_lt.2 h)

theorem mem_unitOf {c : Context} {w : Nat} {i : Instr} :
    i ∈ unitOf c w ↔ i.context = c ∧ w.testBit (testedBit i) = demands i := by
  rw [unitOf, List.mem_filter, selects_iff]
  exact and_iff_right (mem_allInstrs i)

/-- The table, word by word: the two commands, the two SEED bits and the eight control words of each engine. -/
theorem unitOf_wf_encode {c : Context} : ∀ w < 2 ^ wordBits c, unitWf c (unitOf c w) = true ∧ encode (unitOf c w) = w := by
  cases c with
  | op => decide
  | start => decide
  | step e =>
    cases e with
    | crc7 => decide
    | crc16 => decide

/-! ### Encoding -/

theorem foldl_or_testBit (u : List Instr) (w k : Nat) :
    (u.foldl (fun w i => w ||| (rowOf i).value) w).testBit k = true ↔
      w.testBit k = true ∨ ∃ i ∈ u, demands i = true ∧ testedBit i = k := by
  induction u generalizing w with
  | nil => simp
  | cons i u ih =>
    have hvalue : (rowOf i).value.testBit k = true ↔ demands i = true ∧ testedBit i = k := by
      cases h : demands i <;> simp [rowOf_value, h, Nat.testBit_two_pow]
    simp [ih, hvalue, or_assoc]

/-- A bit of a unit's word is 1 exactly when a row of the unit demands it. -/
theorem encode_testBit_iff {u : List Instr} {k : Nat} :
    (encode u).testBit k = true ↔ ∃ i ∈ u, demands i = true ∧ testedBit i = k := by
  simp [encode, foldl_or_testBit]

section WellFormed

variable {c : Context} {u : List Instr} (h : unitWf c u = true)
include h

theorem context_of_mem {i : Instr} (hi : i ∈ u) : i.context = c := by
  simp only [unitWf, unitBelongs, Bool.and_eq_true, List.all_eq_true, beq_iff_eq] at h
  obtain ⟨⟨hctx, -⟩, -⟩ := h
  exact hctx i hi

theorem places_rising : (u.map Instr.place).Pairwise (· < ·) := by
  simp only [unitWf, unitRising, Bool.and_eq_true, decide_eq_true_eq] at h
  obtain ⟨⟨-, hrising⟩, -⟩ := h
  exact hrising

/-- A unit ends with a row that tests bit 0. -/
theorem exists_mem_testedBit_zero : ∃ i ∈ u, testedBit i = 0 := by
  simp only [unitWf, unitComplete, Bool.and_eq_true] at h
  obtain ⟨-, hlast⟩ := h
  split at hlast
  next i hi => exact ⟨i, List.mem_of_getLast? hi, by rw [testedBit, beq_iff_eq.1 hlast]⟩
  next => cases hlast

/-- No two rows of a unit test the same bit. -/
theorem eq_of_mem_of_testedBit_eq {i j : Instr} (hi : i ∈ u) (hj : j ∈ u) (hbit : testedBit i = testedBit j) : i = j :=
  List.inj_on_of_nodup_map (places_rising h).nodup hi hj (place_eq_of_testedBit_eq hbit)

theorem encode_lt : encode u < 2 ^ wordBits c := by
  refine Nat.lt_pow_two_of_testBit _ fun k hk => Bool.eq_false_iff.2 fun hbit => ?_
  obtain ⟨i, hi, -, rfl⟩ := encode_testBit_iff.1 hbit
  have hlt := testedBit_lt_wordBits i
  rw [context_of_mem h hi] at hlt
  omega

/-- Each row of a unit finds its bit in the unit's word as it demands. -/
theorem encode_testBit_of_mem {i : Instr} (hi : i ∈ u) : (encode u).testBit (testedBit i) = demands i := by
  rw [Bool.eq_iff_iff, encode_testBit_iff]
  constructor
  · rintro ⟨j, hj, hdem, hbit⟩
    exact eq_of_mem_of_testedBit_eq h hj hi hbit ▸ hdem
  · exact fun hdem => ⟨i, hi, hdem, rfl⟩

/-- The rows of a unit are the rows its word selects: where the bit is as a row demands, the unit has a row that tests
this bit, and it demands the same. -/
theorem mem_iff_encode_testBit {i : Instr} (hctx : i.context = c) :
    i ∈ u ↔ (encode u).testBit (testedBit i) = demands i := by
  refine ⟨encode_testBit_of_mem h, fun hbit => ?_⟩
  have htested : ∃ j ∈ u, testedBit j = testedBit i := by
    cases hdem : demands i with
    | false => rw [testedBit_of_not_demands hdem]; exact exists_mem_testedBit_zero h
    | true =>
      obtain ⟨j, hj, -, hji⟩ := encode_testBit_iff.1 (hbit.trans hdem)
      exact ⟨j, hj, hji⟩
  obtain ⟨j, hj, hji⟩ := htested
  have hdem : demands j = demands i := by rw [← encode_testBit_of_mem h hj, hji, hbit]
  exact row_unique ((context_of_mem h hj).trans hctx.symm) hji hdem ▸ hj

/-- Units of one context with the same rows are the same list: both are in the order of the places. -/
theorem unit_ext {v : List Instr} (hv : unitWf c v = true) (hmem : ∀ i, i ∈ u ↔ i ∈ v) : u = v := by
  have hasymm : Std.Antisymm fun i j : Instr => i.place < j.place := ⟨fun _ _ hij hji => absurd hij (Nat.lt_asymm hji)⟩
  have hirrefl : Std.Irrefl fun i j : Instr => i.place < j.place := ⟨fun _ => Nat.lt_irrefl _⟩
  exact (List.pairwise_map.1 (places_rising h)).eq_of_mem_iff (List.pairwise_map.1 (places_rising hv)) hmem

theorem unitOf_encode : unitOf c (encode u) = u := by
  refine unit_ext (unitOf_wf_encode _ (encode_lt h)).1 h fun i => ?_
  rw [mem_unitOf]
  constructor
  · rintro ⟨hctx, hbit⟩
    exact (mem_iff_encode_testBit h hctx).2 hbit
  · exact fun hi => ⟨context_of_mem h hi, encode_testBit_of_mem h hi⟩

end WellFormed

/-- Settles O2: the word of a unit fits its format and selects exactly the rows of the unit. -/
theorem decodeOfEncodeGivesTheUnitBack : Obligations.DecodeOfEncodeGivesTheUnitBack := by
  intro c u h
  exact ⟨encode_lt h, by rw [decode_of_lt (encode_lt h), unitOf_encode h]⟩

/-- Settles O3: a word within its format's length answers the unit it selects, a longer one is rejected. -/
theorem everyWordOfItsLengthDecodes : Obligations.EveryWordOfItsLengthDecodes :=
  fun _ w => ⟨fun hw => ⟨_, decode_of_lt hw, unitOf_wf_encode w hw⟩, decode_of_le⟩

/-- A row is selected by a word of its context exactly when the bit it tests is as it demands. -/
theorem mem_unitOf_context {i : Instr} {w : Nat} : i ∈ unitOf i.context w ↔ w.testBit (testedBit i) = demands i :=
  mem_unitOf.trans (and_iff_right rfl)

/-- Settles O4: each row of the two engines with the bit it tests. -/
theorem controlWordBitsSelectTheirRows : Obligations.ControlWordBitsSelectTheirRows := by
  intro w hw
  refine ⟨unitOf (.step .crc7) w, unitOf (.step .crc16) w, decode_of_lt hw, decode_of_lt hw, ?_⟩
  exact ⟨mem_unitOf_context, mem_unitOf_context, mem_unitOf_context, mem_unitOf_context, mem_unitOf_context,
    mem_unitOf_context, mem_unitOf_context, mem_unitOf_context⟩

/-- Settles O1: the table's rows at the eight words. -/
theorem specWordsDecodeToTheirRows : Obligations.SpecWordsDecodeToTheirRows :=
  ⟨rfl, rfl, rfl, rfl, rfl, rfl, rfl, rfl⟩

end Sys2Proof.Proofs.Encoding
end

section
/-! PROOFS. The family 30_encoding, second part: a step runs what its word decodes to. -/

namespace Sys2Proof.Proofs.DecodedStep

open Sys2Proof.Machine Sys2Proof.Laws Sys2Proof.Proofs.Encoding

theorem runWord_of_lt {c : Context} {w : Nat} (h : w < 2 ^ wordBits c) (s : State) :
    runWord c w s = runUnit (unitOf c w) s := by
  simp only [runWord, decode_of_lt h]

theorem engineTurn_of_not_run {e : EngineId} {s : State} (h : s.phase e ≠ .run) : engineTurn e s = .next s := if_neg h

/-- An engine's control word is a word of its format. -/
theorem stateControlWord_lt (s : State) (e : EngineId) : s.controlWord e < 2 ^ wordBits (.step e) := by
  cases e with
  | crc7 => exact controlWord_lt crc7Const s.crc7
  | crc16 => exact controlWord_lt crc16Const s.crc16

theorem engineTurn_of_run {e : EngineId} {s : State} (h : s.phase e = .run) :
    engineTurn e s = runUnit (unitOf (.step e) (s.controlWord e)) s := by
  rw [engineTurn, if_pos h, runWord_of_lt (stateControlWord_lt s e)]

theorem idleTurn_of_crc7_run {s : State} (h : s.crc7.ph = .run) : idleTurn s = engineTurn .crc7 s := if_pos h

theorem idleTurn_of_crc7_not_run {s : State} (h : s.crc7.ph ≠ .run) : idleTurn s = engineTurn .crc16 s := if_neg h

section Inbox

variable (s : State) (rest : List Event) (e : EngineId)

/-- The phases do not depend on the inbox. -/
@[simp] theorem phase_with_inbox : ({ s with inbox := rest } : State).phase e = s.phase e := by cases e <;> rfl

/-- The control words do not depend on the inbox. -/
@[simp] theorem controlWord_with_inbox : ({ s with inbox := rest } : State).controlWord e = s.controlWord e := by
  cases e <;> rfl

end Inbox

/-- Settles O30: each command bit has its row, and START runs it on the state with the message presented. -/
theorem stepRunsTheDecodedCommand : Obligations.StepRunsTheDecodedCommand := by
  intro s op msg rest hin
  rw [step_of_inbox hin]
  obtain rfl | rfl := BitVec.eq_zero_or_eq_one op
  · exact ⟨.crc7, rfl, rfl, hostStart_zero msg _⟩
  · exact ⟨.crc16, rfl, rfl, hostStart_one msg _⟩

/-- Settles O31: the turn runs the unit of the control word, or nothing; with an empty inbox, by the phases. -/
theorem stepRunsTheDecodedIteration : Obligations.StepRunsTheDecodedIteration := by
  intro s
  refine ⟨fun e rest hin => ?_, fun hin => ?_⟩
  · have hstep : step s = engineTurn e { s with inbox := rest } := step_of_inbox hin
    rw [hstep]
    refine ⟨fun hrun => ?_, fun hrun => engineTurn_of_not_run (by simpa using hrun)⟩
    have hlt := stateControlWord_lt s e
    refine ⟨_, decode_of_lt hlt, (unitOf_wf_encode _ hlt).1, ?_⟩
    rw [engineTurn_of_run (by simpa using hrun), controlWord_with_inbox]
  · rw [step_of_empty_inbox hin]
    exact ⟨idleTurn_of_crc7_run, fun h7 _ => idleTurn_of_crc7_not_run h7,
      fun h7 h16 => (idleTurn_of_crc7_not_run h7).trans (engineTurn_of_not_run h16)⟩

end Sys2Proof.Proofs.DecodedStep
end

section
/-! PROOFS. The family 40_crc7, first part: what each row does to its engine when its condition holds and when it does
not, said once for both engines, and one iteration of CRC7 put together from them. -/

namespace Sys2Proof.Proofs.RowResults

open Sys2Proof.Machine Sys2Proof.Laws Sys2Proof.Proofs.Scope Sys2Proof.Proofs.Division Sys2Proof.Proofs.Iteration
  Sys2Proof.Proofs.EngineInvariant Sys2Proof.Proofs.ReadResult Sys2Proof.Proofs.EngineMoves Sys2Proof.Proofs.Runs
  Sys2Proof.Proofs.MessageMemory

/-! ### Reads -/

section Reading

variable {w : Nat} {c : Consts w} {e : Engine w}

theorem memRead_of_listed {k : Nat} {b : Byte} (hk : k < e.n) (hb : e.msg.read k = some b) : memRead e k = .ok b := by
  simp only [memRead, if_pos hk, hb]

theorem memRead_of_unlisted {k : Nat} (hk : k < e.n) (hb : e.msg.read k = none) : memRead e k = .error ⟨k⟩ := by
  simp only [memRead, if_pos hk, hb]

/-- The bit that FETCH ORs in, as a register value. -/
theorem setWidth_bitOfByte (b : Byte) (offset : Nat) :
    (bitOfByte b offset).setWidth w = if b.getLsbD offset = true then 1#w else 0#w := by
  rw [bitOfByte_eq]
  cases b.getLsbD offset
  · simp
  · exact BitVec.eq_of_toNat_eq (by simp)

/-- R132: the byte of a look-ahead bit below `8n` is below `n`. -/
theorem byteIndex_lt (hks : c.k = 8 * c.s) {i n : Nat} (h : i ≠ 0 ∧ i + c.k < 8 * n) : byteIndex c.s i < n := by
  unfold byteIndex
  omega

theorem byteIndex_lt_of_condF (hks : c.k = 8 * c.s) (hF : condF c e = true) : byteIndex c.s e.i < e.n :=
  byteIndex_lt hks ((condF_true_iff c e).1 hF)

theorem subFetch_of_bit {b : BitVec 1} (hrun : e.ph = .run) (hF : condF c e = true)
    (hb : extractBit c.s e e.i = .ok b) : subFetch c e = { e with r := e.r ||| b.setWidth w } := by
  simp only [subFetch, if_pos (And.intro hrun hF), hb]

theorem subFetch_of_listed {b : Byte} (hrun : e.ph = .run) (hF : condF c e = true) (hk : byteIndex c.s e.i < e.n)
    (hb : e.msg.read (byteIndex c.s e.i) = some b) :
    subFetch c e = { e with r := e.r ||| (if b.getLsbD (bitOffset e.i) = true then 1#w else 0#w) } := by
  rw [← setWidth_bitOfByte]
  exact subFetch_of_bit hrun hF (by simp only [extractBit, memRead_of_listed hk hb])

theorem subFetch_of_unlisted (hrun : e.ph = .run) (hF : condF c e = true) (hk : byteIndex c.s e.i < e.n)
    (hb : e.msg.read (byteIndex c.s e.i) = none) : subFetch c e = takeOutOfRange e := by
  simp only [subFetch, if_pos (And.intro hrun hF), extractBit, memRead_of_unlisted hk hb]

/-! ### STOP and SHIFT -/

theorem subStop_of_condT (hrun : e.ph = .run) (hT : condT e = true) : subStop e = { e with ph := .done } :=
  if_pos ⟨hrun, hT⟩

theorem subShift_of_not_condT (hrun : e.ph = .run) (hT : condT e = false) :
    subShift c e = { e with r := (e.r <<< 1) &&& c.mask, i := e.i + 1 } :=
  if_pos ⟨hrun, hT⟩

/-- The masked shift as arithmetic on naturals (R75, R95). -/
theorem ofNat_shiftLeft_and (r : BitVec w) (m : Nat) :
    BitVec.ofNat w ((r.toNat <<< 1) &&& m) = (r <<< 1) &&& BitVec.ofNat w m :=
  BitVec.ofNat_and

/-- REDUCE on the register alone (R73, R93). -/
def reduced (c : Consts w) (r : BitVec w) : BitVec w := if r &&& c.top ≠ 0#w then r ^^^ c.poly else r

theorem subReduce_of_run (hrun : e.ph = .run) : subReduce c e = { e with r := reduced c e.r } := by
  rcases subReduce_cases c e with ⟨hnot, h⟩ | ⟨_, hX, h⟩
  · have hX : ¬ e.r &&& c.top ≠ 0#w := fun hne => hnot ⟨hrun, decide_eq_true hne⟩
    rw [h, reduced, if_neg hX]
  · rw [h, reduced, if_pos (of_decide_eq_true hX)]

end Reading

/-! ### REDUCE and the guard bit -/

section Reducing

variable {d : Nat} {c : Consts (d + 1)} (hc : IsDivisor c)
include hc

/-- REDUCE tests the leading bit. -/
theorem reduced_eq (r : BitVec (d + 1)) : reduced c r = if r.getLsbD d = true then r ^^^ c.poly else r :=
  if_congr (and_top_ne_zero_iff hc r) rfl rfl

theorem reduced_of_clear {r : BitVec (d + 1)} (hr : r.getLsbD d = false) : reduced c r = r := by
  rw [reduced_eq hc, if_neg (Bool.eq_false_iff.1 hr)]

/-- R81, R101: REDUCE leaves the guard bit clear, for the polynomial has it set. -/
theorem reduced_guard (r : BitVec (d + 1)) : (reduced c r).getLsbD d = false := by
  rw [reduced_eq hc]
  split
  next h => rw [BitVec.getLsbD_xor, h, hc.lead]; rfl
  next h => exact Bool.eq_false_iff.2 h

end Reducing

/-- With the guard bit clear a register holds a number below it. -/
theorem toNat_lt_of_guard {d : Nat} {r : BitVec (d + 1)} (hr : r.getLsbD d = false) : r.toNat < 2 ^ d :=
  BitVec.toNat_lt_of_msb_false ((BitVec.msb_eq_getLsbD_last r).trans hr)

/-! ### The rows, as functions of the engine -/

section Rows

variable (s : State)

theorem exec_crc7Seed : exec .crc7Seed s = .next (putCrc7 s (subSeed (seedValue7 s.crc7) s.crc7)) := rfl
theorem exec_crc7Fetch : exec .crc7Fetch s = .next (putCrc7 s (subFetch crc7Const s.crc7)) := rfl
theorem exec_crc7Reduce : exec .crc7Reduce s = .next (putCrc7 s (subReduce crc7Const s.crc7)) := rfl
theorem exec_crc7Stop : exec .crc7Stop s = .next (putCrc7 s (subStop s.crc7)) := rfl
theorem exec_crc7Shift : exec .crc7Shift s = .next (putCrc7 s (subShift crc7Const s.crc7)) := rfl
theorem exec_crc16Reduce : exec .crc16Reduce s = .next (putCrc16 s (subReduce crc16Const s.crc16)) := rfl
theorem exec_crc16Stop : exec .crc16Stop s = .next (putCrc16 s (subStop s.crc16)) := rfl
theorem exec_crc16Shift : exec .crc16Shift s = .next (putCrc16 s (subShift crc16Const s.crc16)) := rfl

@[simp] theorem putCrc7_self : putCrc7 s s.crc7 = s := rfl
@[simp] theorem putCrc16_self : putCrc16 s s.crc16 = s := rfl

end Rows

/-- The command, admitted, is START. -/
theorem exec_crc7_of_admitted {s : State} (hph : s.crc7.ph ≠ .run) (hadm : admits s.cfg s.operand.length = true) :
    exec .crc7 s = .next (putCrc7 s (startEngine seedValue7 s.operand s.crc7)) :=
  (if_neg hph).trans (if_pos hadm)

/-- START of the CRC7 engine with a first byte (R71). -/
theorem startEngine_crc7_of_cons {msg bs : List Byte} {b : Byte} (hmsg : msg = b :: bs) (e : Engine 8) :
    startEngine seedValue7 msg e = { r := b, i := 0, ph := .run, n := msg.length, msg := Memory.ofBytes msg } := by
  subst hmsg
  rw [startEngine, seedValue7_bindMessage]
  rfl

/-- START of the CRC7 engine without a byte (R134). -/
theorem startEngine_crc7_of_nil {msg : List Byte} (hmsg : msg = []) (e : Engine 8) :
    startEngine seedValue7 msg e = { e with ph := .fault, n := 0, msg := [] } := by
  subst hmsg
  exact startEngine_of_lt isEngine_crc7 [] e (by decide)

/-- Settles O14: the first byte is the seed; without one START is too short. -/
theorem crc7CommandBindsAndSeeds : Obligations.Crc7CommandBindsAndSeeds := by
  intro s hph hadm
  rw [exec_crc7_of_admitted hph hadm]
  exact ⟨fun b bs hop => by rw [startEngine_crc7_of_cons hop]; rfl,
    fun hop => by rw [startEngine_crc7_of_nil hop]; rfl⟩

/-- Settles O18: the seed is the read of byte 0. -/
theorem crc7SeedResult : Obligations.Crc7SeedResult := by
  intro s
  rw [exec_crc7Seed, seedValue7]
  constructor
  · intro b hn hb
    rw [memRead_of_listed hn hb]
    rfl
  · intro hn
    rw [Reads.memRead_error_of_le (by omega)]
    rfl

/-- Settles O20: `F` in the spec's numbers, and the byte of the look-ahead bit, listed or not. -/
theorem crc7FetchResult : Obligations.Crc7FetchResult := by
  intro s hrun
  rw [exec_crc7Fetch]
  constructor
  · intro hi hlt
    have hF : condF crc7Const s.crc7 = true := (condF_true_iff _ _).2 ⟨hi, hlt⟩
    have hk : byteIndex crc7Const.s s.crc7.i < s.crc7.n := byteIndex_lt_of_condF rfl hF
    refine ⟨hk, fun b hb => ?_, fun hb => ?_⟩
    · rw [subFetch_of_listed hrun hF hk hb]; rfl
    · rw [subFetch_of_unlisted hrun hF hk hb]; rfl
  · intro h
    rw [subFetch_of_not_condF _ ((condF_false_iff _ _).2 h), putCrc7_self]

/-- Settles O22: REDUCE by its leading bit. -/
theorem reduceResult : Obligations.ReduceResult := by
  intro s
  constructor <;> intro hrun
  · rw [exec_crc7Reduce, subReduce_of_run hrun, reduced_eq isDivisor_crc7]
    constructor <;> intro hX <;> rw [hX] <;> rfl
  · rw [exec_crc16Reduce, subReduce_of_run hrun, reduced_eq isDivisor_crc16]
    constructor <;> intro hX <;> rw [hX] <;> rfl

/-- Settles O23: STOP by `T`. -/
theorem stopResult : Obligations.StopResult := by
  intro s
  constructor <;> intro hrun
  · rw [exec_crc7Stop]
    constructor <;> intro hT
    · rw [subStop_of_condT hrun ((condT_true_iff _).2 hT)]; rfl
    · rw [subStop_of_not_condT ((condT_false_iff _).2 hT), putCrc7_self]
  · rw [exec_crc16Stop]
    constructor <;> intro hT
    · rw [subStop_of_condT hrun ((condT_true_iff _).2 hT)]; rfl
    · rw [subStop_of_not_condT ((condT_false_iff _).2 hT), putCrc16_self]

/-- Settles O24: SHIFT by `T`. -/
theorem shiftResult : Obligations.ShiftResult := by
  intro s
  constructor <;> intro hrun
  · rw [exec_crc7Shift, ofNat_shiftLeft_and]
    constructor <;> intro hT
    · rw [subShift_of_not_condT hrun ((condT_false_iff _).2 hT)]; rfl
    · rw [subShift_of_condT _ ((condT_true_iff _).2 hT), putCrc7_self]
  · rw [exec_crc16Shift, ofNat_shiftLeft_and]
    constructor <;> intro hT
    · rw [subShift_of_not_condT hrun ((condT_false_iff _).2 hT)]; rfl
    · rw [subShift_of_condT _ ((condT_true_iff _).2 hT), putCrc16_self]

/-- Settles O36: REDUCE in RUN leaves the guard bit clear. -/
theorem crc7GuardBitIsClearAfterReduce : Obligations.Crc7GuardBitIsClearAfterReduce := by
  intro s hrun
  refine ⟨_, exec_crc7Reduce s, ?_⟩
  rw [putCrc7_crc7, subReduce_of_run hrun]
  exact reduced_guard isDivisor_crc7 s.crc7.r

/-- Settles O41: the invariant keeps the guard bit clear in DONE, so the low seven bits are the whole number. -/
theorem crc7GuardBitIsClearAtDone : Obligations.Crc7GuardBitIsClearAtDone := by
  intro s ⟨h7, _⟩ hdone
  obtain ⟨_, _, _, hD, _⟩ := h7
  obtain ⟨_, _, htop⟩ := hD hdone
  have hguard : s.crc7.r.getLsbD 7 = false :=
    Bool.eq_false_iff.2 fun h => (and_top_ne_zero_iff isDivisor_crc7 _).2 h htop
  have hlt : s.crc7.r.toNat < 128 := toNat_lt_of_guard hguard
  have hrem := remOut_of_done hdone
  refine ⟨hguard, s.crc7.r.setWidth 7, s.crc7.r, by rw [crcOut7, hrem, Option.map_some], hrem, hlt, ?_⟩
  rw [BitVec.toNat_setWidth, Nat.mod_eq_of_lt hlt]

/-! ### One iteration -/

/-- An iteration of an engine in RUN by the register `ra` that FETCH leaves (R76, R96), the mask being the whole register
(R54). -/
theorem iterate_of_fetched {w : Nat} {c : Consts w} {e : Engine w} (hmask : c.mask = BitVec.allOnes w)
    (hrun : e.ph = .run) {ra : BitVec w} (hra : subFetch c e = { e with r := ra }) :
    (8 * e.n ≤ e.i + 1 → iterate c e = { e with r := reduced c ra, ph := .done }) ∧
      (e.i + 1 < 8 * e.n → iterate c e = { e with r := reduced c ra <<< 1, i := e.i + 1 }) := by
  have hfetch : (subFetch c e).ph = .run := by rw [hra]; exact hrun
  have hreduce : (subReduce c (subFetch c e)).r = reduced c ra := by rw [subReduce_of_run hfetch, hra]
  constructor <;> intro hT
  · rw [iterate_of_last c hfetch hT, hreduce]
  · rw [iterate_of_not_last c hfetch hT, hreduce, hmask, BitVec.and_allOnes]

theorem step_turn_crc7 {s : State} {rest : List Event} (hin : s.inbox = .turn .crc7 :: rest) :
    step s = .next { s with inbox := rest, crc7 := iterate crc7Const s.crc7 } := step_turn hin

/-- Settles O33: FETCH by `F`, then the iteration by `T`. -/
theorem crc7IterationIsFetchReduceStopOrShift : Obligations.Crc7IterationIsFetchReduceStopOrShift := by
  intro s rest hin
  rw [step_turn_crc7 hin]
  refine ⟨fun hrun => by rw [iterate_of_not_run _ hrun], fun hrun ra rb hnoF hF hrb => ?_⟩
  have hra : subFetch crc7Const s.crc7 = { s.crc7 with r := ra } := by
    cases hcond : condF crc7Const s.crc7 with
    | false =>
      rw [subFetch_of_not_condF _ hcond, hnoF ((condF_false_iff _ _).1 hcond)]
    | true =>
      obtain ⟨hi, hlt⟩ := (condF_true_iff _ _).1 hcond
      obtain ⟨b, hb, rfl⟩ := hF hi hlt
      exact subFetch_of_listed hrun hcond (byteIndex_lt_of_condF rfl hcond) hb
  have hred : reduced crc7Const ra = rb := (reduced_eq isDivisor_crc7 ra).trans hrb.symm
  obtain ⟨hlast, hnotLast⟩ := iterate_of_fetched rfl hrun hra
  rw [hred] at hlast hnotLast
  exact ⟨fun hT => by rw [hlast hT], fun hT => by rw [hnotLast hT]⟩

/-! ### The number of fetches -/

/-- `L - (K + 1)` of the numbers below `L` are at least 1 and at most `L - (K + 1)`. -/
theorem length_filter_range_lookAhead {L k : Nat} {p : Nat → Bool} (hp : ∀ i, p i = true ↔ 1 ≤ i ∧ i + (k + 1) ≤ L) :
    ((List.range L).filter p).length = L - (k + 1) := by
  have hmem : ((List.range L).filter p).toFinset = Finset.Icc 1 (L - (k + 1)) := by
    ext i
    simp only [List.mem_toFinset, List.mem_filter, List.mem_range, hp, Finset.mem_Icc]
    omega
  rw [← List.toFinset_card_of_nodup (List.nodup_range.filter p), hmem, Nat.card_Icc, Nat.add_sub_cancel]

theorem condF_with_i_iff {w : Nat} (c : Consts w) (e : Engine w) (i : Nat) :
    condF c { e with i := i } = true ↔ 1 ≤ i ∧ i + (c.k + 1) ≤ 8 * e.n := by
  rw [condF_true_iff, Nat.ne_zero_iff_zero_lt, ← Nat.add_assoc]
  exact Iff.rfl

/-- Settles O47: `F` holds on an interval of iterations, whose length is counted. -/
theorem numberOfFetches : Obligations.NumberOfFetches :=
  ⟨fun e _ => ⟨length_filter_range_lookAhead (condF_with_i_iff crc7Const e), condF_with_i_iff crc7Const e⟩,
    fun e _ => ⟨length_filter_range_lookAhead (condF_with_i_iff crc16Const e), condF_with_i_iff crc16Const e⟩⟩

end Sys2Proof.Proofs.RowResults
end

section
/-! PROOFS. The family 40_crc7, second part: the loop of the generic routine and the iterations of an engine that START has
bound are the same recursion on the register, from the look-ahead bits of the message. -/

namespace Sys2Proof.Proofs.Functions

open Sys2Proof.Machine Sys2Proof.Laws Sys2Proof.Proofs.Iteration Sys2Proof.Proofs.EngineInvariant
  Sys2Proof.Proofs.EngineMoves Sys2Proof.Proofs.Runs
  Sys2Proof.Proofs.MessageMemory Sys2Proof.Proofs.RowResults

/-! ### The pseudocode of R70 and R90 is the generic routine -/

/-- The pseudocode masks with 1 where the machine takes the low bit (R36). -/
theorem shiftRight_and_one (b : Byte) (offset : Nat) : (b >>> offset) &&& 1#8 = (bitOfByte b offset).setWidth 8 := by
  apply BitVec.eq_of_toNat_eq
  rw [BitVec.toNat_setWidth_of_le (by decide), bitOfByte_toNat]
  simp

theorem setWidth_shiftRight_and_one (b : Byte) (offset : Nat) :
    ((b >>> offset) &&& 1#8).setWidth 17 = (bitOfByte b offset).setWidth 17 := by
  rw [shiftRight_and_one, setWidth_bitOfByte, setWidth_bitOfByte]
  split <;> rfl

theorem crc7Loop_eq_genericLoop (msg : List Byte) (fuel : Nat) :
    ∀ i r, crc7Loop msg fuel i r = genericLoop crc7Const msg fuel i r := by
  induction fuel with
  | zero => intro i r; rfl
  | succ fuel ih =>
    intro i r
    by_cases hF : i ≠ 0 ∧ i + 8 < 8 * msg.length
    · have hF' : i ≠ 0 ∧ i + crc7Const.k < 8 * msg.length := hF
      have hread : readByte msg (byteIndex crc7Const.s i) = readByte msg ((i - 1) / 8 + 1) := rfl
      simp only [crc7Loop, genericLoop, if_pos hF, if_pos hF', hread, shiftRight_and_one, ih]
      cases readByte msg ((i - 1) / 8 + 1) <;> rfl
    · have hF' : ¬(i ≠ 0 ∧ i + crc7Const.k < 8 * msg.length) := hF
      simp only [crc7Loop, genericLoop, if_neg hF, if_neg hF', ih]
      rfl

theorem crc16Loop_eq_genericLoop (msg : List Byte) (fuel : Nat) :
    ∀ i r, crc16Loop msg fuel i r = genericLoop crc16Const msg fuel i r := by
  induction fuel with
  | zero => intro i r; rfl
  | succ fuel ih =>
    intro i r
    by_cases hF : i ≠ 0 ∧ i + 16 < 8 * msg.length
    · have hF' : i ≠ 0 ∧ i + crc16Const.k < 8 * msg.length := hF
      have hread : readByte msg (byteIndex crc16Const.s i) = readByte msg ((i - 1) / 8 + 2) := rfl
      simp only [crc16Loop, genericLoop, if_pos hF, if_pos hF', hread, setWidth_shiftRight_and_one, ih]
      cases readByte msg ((i - 1) / 8 + 2) <;> rfl
    · have hF' : ¬(i ≠ 0 ∧ i + crc16Const.k < 8 * msg.length) := hF
      simp only [crc16Loop, genericLoop, if_neg hF, if_neg hF', ih]
      rfl

/-- R112 for CRC7. -/
theorem crc7Function_eq_genericCrc (msg : List Byte) :
    crc7Function msg = genericCrc crc7Const (genericSeed7 msg) msg := by
  simp only [crc7Function, crc7Loop_eq_genericLoop, genericCrc, genericSeed7]
  cases readByte msg 0 <;> rfl

/-- R112 for CRC16. -/
theorem crc16Function_eq_genericCrc (msg : List Byte) :
    crc16Function msg = genericCrc crc16Const (genericSeed16 msg) msg := by
  simp only [crc16Function, crc16Loop_eq_genericLoop, setWidth_shiftRight_and_one, genericCrc, genericSeed16]
  cases readByte msg 0 <;> cases readByte msg 1 <;> cases readByte msg 2 <;> rfl

/-! ### The look-ahead bits -/

/-- The bit that iteration `i` brings into `R[0]`: `bitpos(i + 8S - 1)` when `F` holds, else 0 (R18, R37). -/
def lookAhead {w : Nat} (c : Consts w) (msg : List Byte) (i : Nat) : Bool :=
  decide (i ≠ 0 ∧ i + c.k < 8 * msg.length) && bitPos msg (i + 8 * c.s - 1)

section Registers

variable {w : Nat} {c : Consts w} {msg : List Byte} {i : Nat}

theorem lookAhead_of_fetch (h : i ≠ 0 ∧ i + c.k < 8 * msg.length) :
    lookAhead c msg i = bitPos msg (i + 8 * c.s - 1) := by
  simp only [lookAhead, decide_eq_true h, Bool.true_and]

theorem lookAhead_of_no_fetch (h : ¬(i ≠ 0 ∧ i + c.k < 8 * msg.length)) : lookAhead c msg i = false := by
  simp only [lookAhead, decide_eq_false h, Bool.false_and]

/-- The register after FETCH, with bit `b` coming in. -/
def fetched (r : BitVec w) (b : Bool) : BitVec w := r ||| (BitVec.ofBool b).setWidth w

@[simp] theorem fetched_false (r : BitVec w) : fetched r false = r := by simp [fetched]

/-- R36, R37: the byte and the offset that FETCH uses give the look-ahead bit. -/
theorem bitOfByte_byteIndex {s : Nat} (hi : i ≠ 0) (hk : byteIndex s i < msg.length) :
    bitOfByte msg[byteIndex s i] (bitOffset i) = BitVec.ofBool (bitPos msg (i + 8 * s - 1)) := by
  have hoff : 7 - (7 - bitOffset i) = bitOffset i := Nat.sub_sub_self (bitOffset_le i)
  rw [← extraction_address s (Nat.pos_of_ne_zero hi), bitPos_mul_add msg _ (by omega), hoff,
    List.getD_eq_getElem _ _ hk, bitOfByte_eq]

/-- One iteration of the generic routine on the register. -/
theorem genericLoop_succ (hks : c.k = 8 * c.s) (msg : List Byte) (fuel i : Nat) (r : BitVec w) :
    genericLoop c msg (fuel + 1) i r =
      if 8 * msg.length ≤ i + 1 then .ok (reduced c (fetched r (lookAhead c msg i)))
      else genericLoop c msg fuel (i + 1) ((reduced c (fetched r (lookAhead c msg i)) <<< 1) &&& c.mask) := by
  by_cases hF : i ≠ 0 ∧ i + c.k < 8 * msg.length
  · have hk : byteIndex c.s i < msg.length := byteIndex_lt hks hF
    simp only [genericLoop, if_pos hF, readByte_of_lt hk, bitOfByte_byteIndex hF.1 hk, lookAhead_of_fetch hF]
    rfl
  · simp only [genericLoop, if_neg hF, lookAhead_of_no_fetch hF, fetched_false]
    rfl

/-- FETCH of a bound engine in RUN on the register. -/
theorem subFetch_bound {e : Engine w} (hks : c.k = 8 * c.s) (hrun : e.ph = .run) (hn : e.n = msg.length)
    (hmsg : e.msg = Memory.ofBytes msg) : subFetch c e = { e with r := fetched e.r (lookAhead c msg e.i) } := by
  have hbind : e = bindMessage msg e := by cases e; cases hn; cases hmsg; rfl
  cases hF : condF c e with
  | false =>
    have hno : ¬(e.i ≠ 0 ∧ e.i + c.k < 8 * msg.length) := by
      rw [← hn, ← condF_true_iff, hF]
      exact Bool.false_ne_true
    rw [subFetch_of_not_condF c hF, lookAhead_of_no_fetch hno, fetched_false]
  | true =>
    have hyes : e.i ≠ 0 ∧ e.i + c.k < 8 * msg.length := by rwa [← hn, ← condF_true_iff]
    have hbit : extractBit c.s e e.i = .ok (BitVec.ofBool (bitPos msg (e.i + 8 * c.s - 1))) := by
      obtain ⟨-, -, -, hextract⟩ :=
        extractedBitIsTheLookAheadPosition w e msg c.s e.i (Nat.pos_of_ne_zero hyes.1)
      rw [hbind]
      exact hextract (by omega)
    rw [subFetch_of_bit hrun hF hbit, lookAhead_of_fetch hyes, fetched]

end Registers

/-! ### The iterations of a bound engine run the loop -/

/-- From iteration `I` on, the iterations left run the rest of the generic loop and end in DONE at `I = 8n - 1`. -/
theorem iterate_eq_genericLoop {w : Nat} {c : Consts w} (hks : c.k = 8 * c.s) (hmask : c.mask = BitVec.allOnes w)
    (msg : List Byte) (fuel : Nat) :
    ∀ e : Engine w, e.ph = .run → e.n = msg.length → e.msg = Memory.ofBytes msg → e.i + (fuel + 1) = 8 * msg.length →
      ∃ r, genericLoop c msg (fuel + 1) e.i e.r = .ok r ∧
        (iterate c)^[fuel + 1] e = { e with r := r, i := 8 * msg.length - 1, ph := .done } := by
  induction fuel with
  | zero =>
    intro e hrun hn hmsg hi
    obtain ⟨hlast, -⟩ := iterate_of_fetched hmask hrun (subFetch_bound hks hrun hn hmsg)
    refine ⟨_, by rw [genericLoop_succ hks, if_pos (by omega)], ?_⟩
    rw [Function.iterate_one, hlast (by omega), show 8 * msg.length - 1 = e.i by omega]
  | succ fuel ih =>
    intro e hrun hn hmsg hi
    obtain ⟨-, hnotLast⟩ := iterate_of_fetched hmask hrun (subFetch_bound hks hrun hn hmsg)
    rw [genericLoop_succ hks, if_neg (by omega), Function.iterate_succ_apply, hnotLast (by omega), hmask,
      BitVec.and_allOnes]
    exact ih { e with r := reduced c (fetched e.r (lookAhead c msg e.i)) <<< 1, i := e.i + 1 } hrun hn hmsg
      (by simp only; omega)

/-- START and `8n` iterations run the generic routine (R5). -/
theorem iterate_startEngine_eq_genericCrc {w : Nat} {c : Consts w} {seed : Engine w → Except OutOfRange (BitVec w)}
    (hks : c.k = 8 * c.s) (hmask : c.mask = BitVec.allOnes w) {msg : List Byte} (e : Engine w) {v : BitVec w}
    (hv : seed (bindMessage msg e) = .ok v) (hn : 1 ≤ msg.length) :
    ∃ r, genericCrc c (.ok v) msg = .ok r ∧
      (iterate c)^[8 * msg.length] (startEngine seed msg e) =
        { r := r, i := 8 * msg.length - 1, ph := .done, n := msg.length, msg := Memory.ofBytes msg } := by
  obtain ⟨fuel, hfuel⟩ : ∃ fuel, 8 * msg.length = fuel + 1 := ⟨8 * msg.length - 1, by omega⟩
  have hstart : startEngine seed msg e = { bindMessage msg e with r := v, i := 0, ph := .run } := by
    rw [startEngine, hv]; rfl
  obtain ⟨r, hr, hrun⟩ := iterate_eq_genericLoop hks hmask msg fuel (startEngine seed msg e)
    (by rw [hstart]) (startEngine_n seed msg e) (startEngine_msg seed msg e) (by rw [hstart]; simp only; omega)
  simp only [startEngine_n, startEngine_msg] at hrun
  rw [hstart] at hr
  refine ⟨r, ?_, ?_⟩
  · rw [genericCrc, hfuel]; exact hr
  · rw [hfuel, hrun, hfuel]

/-- R2: turns of the CRC7 engine leave the CRC16 engine alone. -/
theorem iterate_turned_crc7_crc16 (k : Nat) (s : State) : ((turned .crc7)^[k] s).crc16 = s.crc16 := by
  have h : Function.Semiconj State.crc16 (turned .crc7) id := fun _ => rfl
  simpa using h.iterate_right k s

/-- Settles O49: START is one step, `8n` turns are the iterations of the loop, and the loop is that of R70. -/
theorem crc7OperationComputesItsFunction : Obligations.Crc7OperationComputesItsFunction := by
  intro s msg rest hin hph hadm hn
  obtain ⟨b, bs, rfl⟩ : ∃ b bs, msg = b :: bs := List.exists_cons_of_length_pos hn
  obtain ⟨r, hr, hdone⟩ := iterate_startEngine_eq_genericCrc (c := crc7Const) rfl rfl s.crc7
    (seedValue7_bindMessage s.crc7 b bs) hn
  refine ⟨r, _, (crc7Function_eq_genericCrc (b :: bs)).trans hr,
    (run_succ _ (step_start_crc7 hin hph hadm)).trans (run_turns .crc7 rest _ _ rfl), ?_⟩
  rw [iterate_turned_crc7, iterate_turned_inbox, iterate_turned_crc7_crc16, hdone]
  exact ⟨rfl, rfl, Nat.sub_add_cancel (by omega), rfl, rfl, rfl, rfl⟩

end Sys2Proof.Proofs.Functions
end

section
/-! PROOFS. The family 40_crc7, third part: the generic routine is the long division of the first `W` message bits followed
by the look-ahead bits (R82, R102, R113), for all constants whose polynomial leads with the register's top bit. -/

namespace Sys2Proof.Proofs.RoutineDivides

open Sys2Proof.Machine Sys2Proof.Proofs.Division Sys2Proof.Proofs.MessageMemory Sys2Proof.Proofs.RowResults
  Sys2Proof.Proofs.Functions

/-! ### Long division, a register at a time -/

section Steps

variable {w : Nat}

/-- R113: FETCH after the shift of the iteration before brings the next bit in below. -/
theorem fetched_shiftLeft (r : BitVec w) (b : Bool) : fetched (r <<< 1) b = r.shiftConcat b := by
  apply BitVec.eq_of_getLsbD_eq
  intro k hk
  rw [fetched, BitVec.getLsbD_or, BitVec.getLsbD_shiftConcat]
  cases k with
  | zero => simp [hk]
  | succ k => simp [-BitVec.getLsbD_eq_getElem, hk]

theorem divideStep_eq (c : Consts w) (r : BitVec w) (b : Bool) : divideStep c r b = reduced c (r.shiftConcat b) := by
  rw [← fetched_shiftLeft]; rfl

/-- The register that holds a bit string, most significant bit first. -/
def registerOf (bits : List Bool) : BitVec w := bits.foldl BitVec.shiftConcat 0#w

theorem registerOf_append_singleton (bits : List Bool) (b : Bool) :
    (registerOf (bits ++ [b]) : BitVec w) = (registerOf bits).shiftConcat b := by
  simp [registerOf]

/-- Counted from the last bit of the string, which is bit 0. -/
theorem registerOf_getLsbD (bits : List Bool) :
    ∀ k, (registerOf bits : BitVec w).getLsbD k = (decide (k < w) && bits.reverse.getD k false) := by
  induction bits using List.reverseRecOn with
  | nil => intro k; simp [registerOf]
  | append_singleton bits b ih =>
    intro k
    rw [registerOf_append_singleton, BitVec.getLsbD_shiftConcat, List.reverse_concat]
    cases k with
    | zero => simp
    | succ k =>
      rw [if_neg k.succ_ne_zero, Nat.add_sub_cancel, ih, List.getD_cons_succ, ← Bool.and_assoc, ← Bool.decide_and]
      have hlt : k + 1 < w ∧ k < w ↔ k + 1 < w := by omega
      simp only [hlt]

end Steps

section Divisor

variable {d : Nat} {c : Consts (d + 1)} (hc : IsDivisor c)
include hc

/-- A string of up to `W` bits is divided by one REDUCE: before its last bit nothing reaches the top. -/
theorem longDivide_eq_reduced (bits : List Bool) (hlen : bits.length ≤ d + 1) :
    longDivide c bits = reduced c (registerOf bits) := by
  induction bits using List.reverseRecOn with
  | nil => exact (reduced_of_clear hc BitVec.getLsbD_zero).symm
  | append_singleton bits b ih =>
    rw [List.length_append, List.length_singleton, Nat.add_le_add_iff_right] at hlen
    have hclear : (registerOf bits : BitVec (d + 1)).getLsbD d = false := by
      rw [registerOf_getLsbD, List.getD_eq_default _ _ (by simpa using hlen), Bool.and_false]
    rw [longDivide_append_singleton, ih (by omega), reduced_of_clear hc hclear, divideStep_eq,
      registerOf_append_singleton]

end Divisor

/-! ### The generic routine -/

theorem messageBits_length (msg : List Byte) : (messageBits msg).length = 8 * msg.length := by simp [messageBits]

theorem messageBits_getElem (msg : List Byte) {p : Nat} (hp : p < (messageBits msg).length) :
    (messageBits msg)[p] = bitPos msg p := by simp [messageBits]

/-- The bits that the iterations from `i` on bring in, `fuel` of them. -/
def lookAheads {w : Nat} (c : Consts w) (msg : List Byte) (i fuel : Nat) : List Bool :=
  (List.range' i fuel).map (lookAhead c msg)

/-- From the shift after iteration `i - 1` on, the loop divides the look-ahead bits into the register `q`. -/
theorem genericLoop_shifted {w : Nat} {c : Consts w} (hks : c.k = 8 * c.s) (hmask : c.mask = BitVec.allOnes w)
    (msg : List Byte) (fuel : Nat) : ∀ i (q : BitVec w), i + (fuel + 1) = 8 * msg.length →
      genericLoop c msg (fuel + 1) i (q <<< 1) = .ok ((lookAheads c msg i (fuel + 1)).foldl (divideStep c) q) := by
  induction fuel with
  | zero =>
    intro i q hi
    rw [genericLoop_succ hks, if_pos (by omega), fetched_shiftLeft, ← divideStep_eq]
    rfl
  | succ fuel ih =>
    intro i q hi
    rw [genericLoop_succ hks, if_neg (by omega), fetched_shiftLeft, ← divideStep_eq, hmask, BitVec.and_allOnes,
      ih _ _ (by omega)]
    rfl

/-- The whole loop: the seed is reduced, and the look-ahead bits of the iterations 1 to `8n - 1` are divided in. -/
theorem genericCrc_eq_foldl {w : Nat} {c : Consts w} (hks : c.k = 8 * c.s) (hmask : c.mask = BitVec.allOnes w)
    {msg : List Byte} (hn : 1 ≤ msg.length) (v : BitVec w) :
    genericCrc c (.ok v) msg =
      .ok ((lookAheads c msg 1 (8 * msg.length - 1)).foldl (divideStep c) (reduced c v)) := by
  obtain ⟨fuel, hfuel⟩ : ∃ fuel, 8 * msg.length = fuel + 1 + 1 := ⟨8 * msg.length - 2, by omega⟩
  have hzero : lookAhead c msg 0 = false := lookAhead_of_no_fetch (by simp)
  rw [genericCrc, hfuel, genericLoop_succ hks, if_neg (by omega), hzero, fetched_false, hmask, BitVec.and_allOnes,
    genericLoop_shifted hks hmask msg fuel _ _ (by omega)]
  rfl

/-- R113: with the first `W` message bits as its seed the generic routine is the long division of them followed by the
look-ahead bits. -/
theorem genericCrc_eq_longDivide {d : Nat} {c : Consts (d + 1)} (hc : IsDivisor c) (hks : c.k = 8 * c.s)
    (hmask : c.mask = BitVec.allOnes (d + 1)) {msg : List Byte} (hn : 1 ≤ msg.length) (hw : d + 1 ≤ 8 * msg.length)
    {v : BitVec (d + 1)} (hv : ∀ p, p < d + 1 → v.getLsbD (d - p) = bitPos msg p) :
    genericCrc c (.ok v) msg =
      .ok (longDivide c ((messageBits msg).take (d + 1) ++ lookAheads c msg 1 (8 * msg.length - 1))) := by
  have hlen : ((messageBits msg).take (d + 1)).length = d + 1 := by simp [messageBits_length, hw]
  have hreg : registerOf ((messageBits msg).take (d + 1)) = v := by
    apply BitVec.eq_of_getLsbD_eq
    intro k hk
    have hk' : k < ((messageBits msg).take (d + 1)).reverse.length := by simpa [hlen] using hk
    rw [registerOf_getLsbD, decide_eq_true hk, Bool.true_and, List.getD_eq_getElem _ _ hk', List.getElem_reverse,
      List.getElem_take, messageBits_getElem, hlen, ← hv _ (by omega)]
    congr 1
    omega
  have hsplit (l l' : List Bool) : longDivide c (l ++ l') = l'.foldl (divideStep c) (longDivide c l) := List.foldl_append
  rw [genericCrc_eq_foldl hks hmask hn, hsplit, longDivide_eq_reduced hc _ hlen.le, hreg]

/-! ### The two functions -/

/-- R70 as a long division. -/
theorem crc7Function_eq_longDivide {msg : List Byte} (hn : 1 ≤ msg.length) :
    crc7Function msg =
      .ok (longDivide crc7Const ((messageBits msg).take 8 ++ lookAheads crc7Const msg 1 (8 * msg.length - 1))) := by
  obtain ⟨b, bs, rfl⟩ : ∃ b bs, msg = b :: bs := List.exists_cons_of_length_pos hn
  obtain ⟨-, hseed⟩ := seedHoldsTheFirstMessageBits.1 (Engine.reset 8) _ b bs rfl
  rw [crc7Function_eq_genericCrc]
  exact genericCrc_eq_longDivide isDivisor_crc7 rfl rfl hn (by omega) hseed

/-- R90 as a long division. -/
theorem crc16Function_eq_longDivide {msg : List Byte} (hn : 3 ≤ msg.length) :
    crc16Function msg =
      .ok (longDivide crc16Const ((messageBits msg).take 17 ++ lookAheads crc16Const msg 1 (8 * msg.length - 1))) := by
  match msg, hn with
  | b0 :: b1 :: b2 :: bs, hn =>
    rw [crc16Function_eq_genericCrc]
    exact genericCrc_eq_longDivide isDivisor_crc16 rfl rfl (by omega) (by omega)
      fun p hp => seedWord16_bitPos b0 b1 b2 bs hp

/-! ### The look-ahead bits are the rest of the message -/

section LookAheads

variable {w : Nat} {c : Consts w} {msg : List Byte}

theorem lookAheads_add (i a b : Nat) :
    lookAheads c msg i (a + b) = lookAheads c msg i a ++ lookAheads c msg (i + a) b := by
  rw [lookAheads, ← List.range'_append_1, List.map_append]
  rfl

/-- Without `F` zeros come in. -/
theorem lookAheads_of_no_fetch {i : Nat} (hi : 8 * msg.length ≤ i + c.k) (fuel : Nat) :
    lookAheads c msg i fuel = List.replicate fuel false := by
  refine List.eq_replicate_iff.2 ⟨by simp [lookAheads], ?_⟩
  intro b hb
  obtain ⟨j, hj, rfl⟩ := List.mem_map.1 hb
  have hij := (List.mem_range'_1.1 hj).1
  exact lookAhead_of_no_fetch fun hF => by omega

/-- With `F` the message bits from position `8S` on come in, the last one left out. -/
theorem lookAheads_of_fetch (hks : c.k = 8 * c.s) :
    lookAheads c msg 1 (8 * msg.length - 8 * c.s - 1) = ((messageBits msg).drop (8 * c.s)).dropLast := by
  apply List.ext_getElem
  · simp [lookAheads, messageBits_length]
  intro j hj _
  have hj' : j < 8 * msg.length - 8 * c.s - 1 := by simpa [lookAheads] using hj
  rw [List.getElem_dropLast, List.getElem_drop, messageBits_getElem]
  simp only [lookAheads, List.getElem_map, List.getElem_range', Nat.one_mul]
  rw [lookAhead_of_fetch (by omega), show 1 + j + 8 * c.s - 1 = 8 * c.s + j by omega]

/-- R82, R102: what the iterations 1 to `8n - 1` take in. -/
theorem lookAheads_eq (hks : c.k = 8 * c.s) (hn : c.s < msg.length) :
    lookAheads c msg 1 (8 * msg.length - 1) =
      ((messageBits msg).drop (8 * c.s)).dropLast ++ List.replicate (8 * c.s) false := by
  have hfuel : 8 * msg.length - 1 = (8 * msg.length - 8 * c.s - 1) + 8 * c.s := by omega
  rw [hfuel, lookAheads_add, lookAheads_of_fetch hks, lookAheads_of_no_fetch (by omega)]

end LookAheads

/-- R82: the seed's 8 bits and what follows them. -/
theorem crc7_dividend_eq {msg : List Byte} (hn : 1 ≤ msg.length) :
    (messageBits msg).take 8 ++ lookAheads crc7Const msg 1 (8 * msg.length - 1) =
      effectiveBits7 msg ++ List.replicate 7 false := by
  rcases Nat.lt_or_ge msg.length 2 with h | h
  · have hone : msg.length = 1 := by omega
    have htake : (messageBits msg).take 8 = messageBits msg :=
      List.take_of_length_le (by rw [messageBits_length, hone])
    rw [effectiveBits7, if_neg (Nat.not_le.2 h), htake, hone, lookAheads_of_no_fetch (by rw [hone]; decide)]
  · have hdrop : (messageBits msg).drop 8 ≠ [] := List.ne_nil_of_length_pos (by
      rw [List.length_drop, messageBits_length]; omega)
    have hbits : (messageBits msg).take 8 ++ ((messageBits msg).drop 8).dropLast = (messageBits msg).dropLast := by
      rw [← List.dropLast_append_of_ne_nil hdrop, List.take_append_drop]
    rw [lookAheads_eq (c := crc7Const) rfl h, ← List.append_assoc, effectiveBits7, if_pos h, List.append_assoc _ [false]]
    exact congrArg (· ++ List.replicate 8 false) hbits

/-- Settles O55: the bits that the CRC7 engine takes in are the effective string and seven zeros. -/
theorem crc7DividesItsEffectiveString : Obligations.Crc7DividesItsEffectiveString := by
  intro msg hn
  rw [crc7Function_eq_longDivide hn, crc7_dividend_eq hn]

theorem crc7Function_of_lt {msg : List Byte} (hn : msg.length < 1) : ∃ x, crc7Function msg = .error x := by
  obtain rfl : msg = [] := List.eq_nil_of_length_eq_zero (by omega)
  exact ⟨⟨0⟩, rfl⟩

theorem crc16Function_of_lt {msg : List Byte} (hn : msg.length < 3) : ∃ x, crc16Function msg = .error x := by
  match msg, hn with
  | [], _ => exact ⟨⟨0⟩, rfl⟩
  | [_], _ => exact ⟨⟨1⟩, rfl⟩
  | [_, _], _ => exact ⟨⟨2⟩, rfl⟩

/-- A long division leaves a number below the guard bit. -/
theorem longDivide_toNat_lt {d : Nat} {c : Consts (d + 1)} (hc : IsDivisor c) (bits : List Bool) :
    (longDivide c bits).toNat < 2 ^ d := toNat_lt_of_guard (longDivide_top hc bits)

/-- Settles O59: a function that returns a remainder returns that of a long division. -/
theorem resultsAreInRange : Obligations.ResultsAreInRange := by
  intro msg
  constructor <;> intro r hr
  · rcases Nat.lt_or_ge msg.length 1 with hn | hn
    · obtain ⟨x, hx⟩ := crc7Function_of_lt hn
      cases hx.symm.trans hr
    · cases (crc7Function_eq_longDivide hn).symm.trans hr
      exact Nat.le_of_lt_succ (longDivide_toNat_lt isDivisor_crc7 _)
  · rcases Nat.lt_or_ge msg.length 3 with hn | hn
    · obtain ⟨x, hx⟩ := crc16Function_of_lt hn
      cases hx.symm.trans hr
    · cases (crc16Function_eq_longDivide hn).symm.trans hr
      exact Nat.le_of_lt_succ (longDivide_toNat_lt isDivisor_crc16 _)

end Sys2Proof.Proofs.RoutineDivides
end

section
/-! PROOFS. The family 41_crc16, first part: START, SEED, FETCH and REDUCE of the CRC16 engine, its guard bit, and one
iteration. -/

namespace Sys2Proof.Proofs.Crc16Rows

open Sys2Proof.Machine Sys2Proof.Laws Sys2Proof.Proofs.Scope Sys2Proof.Proofs.Division Sys2Proof.Proofs.Reads
  Sys2Proof.Proofs.Iteration Sys2Proof.Proofs.EngineInvariant Sys2Proof.Proofs.ReadResult Sys2Proof.Proofs.EngineMoves
  Sys2Proof.Proofs.Runs Sys2Proof.Proofs.MessageMemory Sys2Proof.Proofs.RowResults

section Rows

variable (s : State)

theorem exec_crc16Seed : exec .crc16Seed s = .next (putCrc16 s (subSeed (seedValue16 s.crc16) s.crc16)) := rfl
theorem exec_crc16Fetch : exec .crc16Fetch s = .next (putCrc16 s (subFetch crc16Const s.crc16)) := rfl

end Rows

/-- The command, admitted, is START. -/
theorem exec_crc16_of_admitted {s : State} (hph : s.crc16.ph ≠ .run) (hadm : admits s.cfg s.operand.length = true) :
    exec .crc16 s = .next (putCrc16 s (startEngine seedValue16 s.operand s.crc16)) :=
  (if_neg hph).trans (if_pos hadm)

/-! ### The seed -/

/-- R32: a byte moved down by 7 has one bit left, so masking it with 1 changes nothing. -/
theorem bitOfByte_seven (b : Byte) : (bitOfByte b 7).setWidth 17 = (b >>> 7).setWidth 17 := by
  have hlt : b.toNat >>> 7 < 2 := by
    rw [Nat.shiftRight_eq_div_pow]
    exact Nat.div_lt_of_lt_mul b.isLt
  apply BitVec.eq_of_toNat_eq
  rw [BitVec.toNat_setWidth_of_le (by decide), bitOfByte_toNat, Nat.and_one_is_mod, Nat.mod_eq_of_lt hlt,
    BitVec.toNat_setWidth_of_le (by decide), BitVec.toNat_ushiftRight]

/-- The seed word without its mask (R55). -/
theorem seedWord16_eq (b0 b1 b2 : Byte) :
    seedWord16 b0 b1 b2 = (b0.setWidth 17 <<< 9) ||| (b1.setWidth 17 <<< 1) ||| (b2 >>> 7).setWidth 17 := by
  rw [seedWord16, bitOfByte_seven]

section Seed

variable {e : Engine 17}

theorem seedValue16_of_listed {b0 b1 b2 : Byte} (hn : 2 < e.n) (h0 : e.msg.read 0 = some b0)
    (h1 : e.msg.read 1 = some b1) (h2 : e.msg.read 2 = some b2) : seedValue16 e = .ok (seedWord16 b0 b1 b2) := by
  simp only [seedValue16, memRead_of_listed (show 0 < e.n by omega) h0, memRead_of_listed (show 1 < e.n by omega) h1,
    memRead_of_listed hn h2]

/-- R131: below three bytes one of the reads raises, the last one at the latest. -/
theorem seedValue16_of_short (hn : e.n ≤ 2) : ∃ x, seedValue16 e = .error x := by
  unfold seedValue16
  rw [memRead_error_of_le hn]
  cases memRead e 0 with
  | error x => exact ⟨x, rfl⟩
  | ok b0 =>
    cases memRead e 1 with
    | error x => exact ⟨x, rfl⟩
    | ok b1 => exact ⟨⟨2⟩, rfl⟩

end Seed

/-- START of the CRC16 engine with three bytes (R91). -/
theorem startEngine_crc16_of_cons {msg bs : List Byte} {b0 b1 b2 : Byte} (hmsg : msg = b0 :: b1 :: b2 :: bs)
    (e : Engine 17) : startEngine seedValue16 msg e =
      { r := seedWord16 b0 b1 b2, i := 0, ph := .run, n := msg.length, msg := Memory.ofBytes msg } := by
  subst hmsg
  rw [startEngine, seedValue16_bindMessage]
  rfl

/-- Settles O15: three bytes give the seed; with fewer START is too short. -/
theorem crc16CommandBindsAndSeeds : Obligations.Crc16CommandBindsAndSeeds := by
  intro s hph hadm
  rw [exec_crc16_of_admitted hph hadm]
  constructor
  · intro b0 b1 b2 bs hop
    rw [startEngine_crc16_of_cons hop, seedWord16_eq]
    rfl
  · intro hlen
    rw [startEngine_of_lt isEngine_crc16 s.operand s.crc16 (Nat.lt_succ_of_le hlen)]
    rfl

/-- Settles O19: the seed of the three bytes, and one of the three reads raises when a byte is missing. -/
theorem crc16SeedResult : Obligations.Crc16SeedResult := by
  intro s
  rw [exec_crc16Seed]
  constructor
  · intro b0 b1 b2 hn h0 h1 h2
    rw [seedValue16_of_listed hn h0 h1 h2, seedWord16_eq]
    rfl
  · intro hn
    obtain ⟨x, hx⟩ := seedValue16_of_short hn
    rw [hx]
    rfl

/-! ### FETCH -/

/-- Settles O21: `F` in the spec's numbers, and the byte of the look-ahead bit, listed or not. -/
theorem crc16FetchResult : Obligations.Crc16FetchResult := by
  intro s hrun
  rw [exec_crc16Fetch]
  constructor
  · intro hi hlt
    have hF : condF crc16Const s.crc16 = true := (condF_true_iff _ _).2 ⟨hi, hlt⟩
    have hk : byteIndex crc16Const.s s.crc16.i < s.crc16.n := byteIndex_lt_of_condF rfl hF
    refine ⟨hk, fun b hb => ?_, fun hb => ?_⟩
    · rw [subFetch_of_listed hrun hF hk hb]; rfl
    · rw [subFetch_of_unlisted hrun hF hk hb]; rfl
  · intro h
    rw [subFetch_of_not_condF _ ((condF_false_iff _ _).2 h), putCrc16_self]

/-- FETCH in RUN leaves the register `ra`, when `ra` is what the rules give: the old register without `F`, and the old
register with the look-ahead bit of a listed byte ORed in with `F` (R92). -/
theorem subFetch_eq_of_register {w : Nat} {c : Consts w} {e : Engine w} (hks : c.k = 8 * c.s) (hrun : e.ph = .run)
    {ra : BitVec w} (hnoF : e.i = 0 ∨ 8 * e.n ≤ e.i + c.k → ra = e.r)
    (hF : e.i ≠ 0 → e.i + c.k < 8 * e.n → ∃ b, e.msg.read (byteIndex c.s e.i) = some b ∧
      ra = e.r ||| (if b.getLsbD (bitOffset e.i) = true then 1#w else 0#w)) :
    subFetch c e = { e with r := ra } := by
  cases hcond : condF c e with
  | false => rw [subFetch_of_not_condF c hcond, hnoF ((condF_false_iff c e).1 hcond)]
  | true =>
    obtain ⟨hi, hlt⟩ := (condF_true_iff c e).1 hcond
    obtain ⟨b, hb, rfl⟩ := hF hi hlt
    exact subFetch_of_listed hrun hcond (byteIndex_lt_of_condF hks hcond) hb

/-! ### The guard bit -/

/-- Settles O37: REDUCE in RUN leaves the guard bit clear. -/
theorem crc16GuardBitIsClearAfterReduce : Obligations.Crc16GuardBitIsClearAfterReduce := by
  intro s hrun
  refine ⟨_, exec_crc16Reduce s, ?_⟩
  rw [putCrc16_crc16, subReduce_of_run hrun]
  exact reduced_guard isDivisor_crc16 s.crc16.r

/-- The invariant keeps the guard bit clear in DONE. -/
theorem guard_of_done {d : Nat} {c : Consts (d + 1)} (hc : IsDivisor c) {e : Engine (d + 1)} (hinv : e.Inv c)
    (hdone : e.ph = .done) : e.r.getLsbD d = false := by
  obtain ⟨-, -, -, hD, -⟩ := hinv
  obtain ⟨-, -, htop⟩ := hD hdone
  exact Bool.eq_false_iff.2 fun h => (and_top_ne_zero_iff hc e.r).2 h htop

theorem crcOut16_of_done {e : Engine 17} (hdone : e.ph = .done) : crcOut16 e = some (e.r.setWidth 16) := by
  rw [crcOut16, remOut_of_done hdone, Option.map_some]

/-- Settles O42: with the guard bit clear the low sixteen bits are the whole number. -/
theorem crc16GuardBitIsClearAtDone : Obligations.Crc16GuardBitIsClearAtDone := by
  intro s ⟨_, h16⟩ hdone
  have hguard : s.crc16.r.getLsbD 16 = false := guard_of_done isDivisor_crc16 h16 hdone
  have hlt : s.crc16.r.toNat < 2 ^ 16 := toNat_lt_of_guard hguard
  refine ⟨hguard, _, _, crcOut16_of_done hdone, remOut_of_done hdone, Nat.le_of_lt_succ hlt, ?_⟩
  rw [BitVec.toNat_setWidth, Nat.mod_eq_of_lt hlt]

/-! ### One iteration -/

theorem step_turn_crc16 {s : State} {rest : List Event} (hin : s.inbox = .turn .crc16 :: rest) :
    step s = .next { s with inbox := rest, crc16 := iterate crc16Const s.crc16 } := step_turn hin

/-- Settles O34: FETCH by `F`, then the iteration by `T`. -/
theorem crc16IterationIsFetchReduceStopOrShift : Obligations.Crc16IterationIsFetchReduceStopOrShift := by
  intro s rest hin
  rw [step_turn_crc16 hin]
  refine ⟨fun hrun => by rw [iterate_of_not_run _ hrun], fun hrun ra rb hnoF hF hrb => ?_⟩
  have hra : subFetch crc16Const s.crc16 = { s.crc16 with r := ra } := subFetch_eq_of_register rfl hrun hnoF hF
  have hred : reduced crc16Const ra = rb := (reduced_eq isDivisor_crc16 ra).trans hrb.symm
  obtain ⟨hlast, hnotLast⟩ := iterate_of_fetched rfl hrun hra
  rw [hred] at hlast hnotLast
  exact ⟨fun hT => by rw [hlast hT], fun hT => by rw [hnotLast hT]⟩

end Sys2Proof.Proofs.Crc16Rows
end

section
/-! PROOFS. The family 41_crc16, second part: the whole operation, as START and turns and as a long division. -/

namespace Sys2Proof.Proofs.Crc16Operation

open Sys2Proof.Machine Sys2Proof.Proofs.EngineMoves Sys2Proof.Proofs.Runs Sys2Proof.Proofs.MessageMemory
  Sys2Proof.Proofs.Functions Sys2Proof.Proofs.RoutineDivides

/-- R2: turns of the CRC16 engine leave the CRC7 engine alone. -/
theorem iterate_turned_crc16_crc7 (k : Nat) (s : State) : ((turned .crc16)^[k] s).crc7 = s.crc7 := by
  have h : Function.Semiconj State.crc7 (turned .crc16) id := fun _ => rfl
  simpa using h.iterate_right k s

/-- Settles O50: START is one step, `8n` turns are the iterations of the loop, and the loop is that of R90. -/
theorem crc16OperationComputesItsFunction : Obligations.Crc16OperationComputesItsFunction := by
  intro s msg rest hin hph hadm hn
  obtain ⟨b0, b1, b2, bs, rfl⟩ : ∃ b0 b1 b2 bs, msg = b0 :: b1 :: b2 :: bs := by
    match msg, hn with
    | b0 :: b1 :: b2 :: bs, _ => exact ⟨b0, b1, b2, bs, rfl⟩
  obtain ⟨r, hr, hdone⟩ := iterate_startEngine_eq_genericCrc (c := crc16Const) rfl rfl s.crc16
    (seedValue16_bindMessage s.crc16 b0 b1 b2 bs) (by omega)
  refine ⟨r, _, (crc16Function_eq_genericCrc (b0 :: b1 :: b2 :: bs)).trans hr,
    (run_succ _ (step_start_crc16 hin hph hadm)).trans (run_turns .crc16 rest _ _ rfl), ?_⟩
  rw [iterate_turned_crc16, iterate_turned_inbox, iterate_turned_crc16_crc7, hdone]
  exact ⟨rfl, rfl, Nat.sub_add_cancel (by omega), rfl, rfl, rfl, rfl⟩

/-- R102: the seed's 17 bits, then the bits that FETCH brings in from position 16 on, then 16 zeros. -/
theorem crc16_dividend_eq {msg : List Byte} (hn : 3 ≤ msg.length) :
    (messageBits msg).take 17 ++ lookAheads crc16Const msg 1 (8 * msg.length - 1) =
      effectiveBits16 msg ++ List.replicate 16 false := by
  rw [lookAheads_eq (c := crc16Const) rfl hn, ← List.append_assoc]
  rfl

/-- Settles O56: the bits that the CRC16 engine takes in are the effective string and sixteen zeros. -/
theorem crc16DividesItsEffectiveString : Obligations.Crc16DividesItsEffectiveString := by
  intro msg hn
  rw [crc16Function_eq_longDivide hn, crc16_dividend_eq hn]

end Sys2Proof.Proofs.Crc16Operation
end

section
/-! PROOFS. The family 42_common_step_and_laws: the two functions and the generic routine, the last message bit,
and the run of both engines on an empty inbox. -/

namespace Sys2Proof.Proofs.CommonLaws

open Sys2Proof.Machine Sys2Proof.Laws Sys2Proof.Proofs.Iteration Sys2Proof.Proofs.EngineInvariant
  Sys2Proof.Proofs.EngineMoves Sys2Proof.Proofs.Runs Sys2Proof.Proofs.DecodedStep Sys2Proof.Proofs.Functions
  Sys2Proof.Proofs.RoutineDivides Sys2Proof.Proofs.Crc16Operation

/-! ### The generic routine -/

/-- Settles O53: the constants that R112 lists are those of the engines, for which both loops are the generic one. -/
theorem operationsAreInstancesOfTheGenericRoutine : Obligations.OperationsAreInstancesOfTheGenericRoutine :=
  fun msg => ⟨crc7Function_eq_genericCrc msg, crc16Function_eq_genericCrc msg⟩

/-! ### The last message bit -/

section LastBit

variable {b b' : Byte} (hbb' : b >>> 1 = b' >>> 1)
include hbb'

theorem getLsbD_succ_eq_of_shiftRight_one (k : Nat) : b.getLsbD (k + 1) = b'.getLsbD (k + 1) := by
  simpa only [BitVec.getLsbD_ushiftRight, Nat.add_comm 1 k] using congrArg (·.getLsbD k) hbb'

/-- Every position before the last reads the same bit: in the last byte it is a bit above bit 0 (R31). -/
theorem bitPos_concat_eq (init : List Byte) {p : Nat} (hp : p + 1 < 8 * (init.length + 1)) :
    bitPos (init ++ [b]) p = bitPos (init ++ [b']) p := by
  rcases Nat.lt_or_ge (p / 8) init.length with hlt | hge
  · simp only [bitPos, List.getD_append _ _ _ _ hlt]
  · have hlast : p / 8 = init.length := by omega
    have hbit : 7 - p % 8 = 6 - p % 8 + 1 := by omega
    simp only [bitPos, hlast, hbit, List.getD_append_right _ _ _ _ le_rfl, Nat.sub_self, List.getD_cons_zero]
    exact getLsbD_succ_eq_of_shiftRight_one hbb' _

theorem messageBits_dropLast_concat_eq (init : List Byte) :
    (messageBits (init ++ [b])).dropLast = (messageBits (init ++ [b'])).dropLast := by
  apply List.ext_getElem
  · simp [messageBits_length]
  intro p hp _
  rw [List.getElem_dropLast, List.getElem_dropLast, messageBits_getElem, messageBits_getElem]
  have hp' : p < 8 * (init.length + 1) - 1 := by simpa [messageBits_length] using hp
  exact bitPos_concat_eq hbb' init (by omega)

end LastBit

/-- R82: from two bytes on the effective string is a function of the bits before the last one. -/
theorem effectiveBits7_eq_dropLast {msg : List Byte} (hn : 2 ≤ msg.length) :
    effectiveBits7 msg = (messageBits msg).dropLast ++ [false] := if_pos hn

/-- R102: from three bytes on the effective string too is a function of the bits before the last one. -/
theorem effectiveBits16_eq_dropLast {msg : List Byte} (hn : 3 ≤ msg.length) :
    effectiveBits16 msg = (messageBits msg).dropLast.take 17 ++ (messageBits msg).dropLast.drop 16 := by
  have htake : min 17 (8 * msg.length - 1) = 17 := by omega
  rw [effectiveBits16, List.dropLast_eq_take, List.dropLast_eq_take, List.take_take, List.length_drop,
    messageBits_length, htake, List.drop_take, Nat.sub_right_comm]

/-- Settles O58: each function divides its effective string, which the last message bit does not enter. -/
theorem lastMessageBitIsIgnored : Obligations.LastMessageBitIsIgnored := by
  intro init b b' hbb'
  have hlen (x : Byte) : (init ++ [x]).length = init.length + 1 := List.length_append
  constructor <;> intro hn
  · have h (x : Byte) := crc7DividesItsEffectiveString (init ++ [x]) (by rw [hlen]; omega)
    rw [h, h, effectiveBits7_eq_dropLast (by rw [hlen]; omega), effectiveBits7_eq_dropLast (by rw [hlen]; omega),
      messageBits_dropLast_concat_eq hbb']
  · have h (x : Byte) := crc16DividesItsEffectiveString (init ++ [x]) (by rw [hlen]; omega)
    rw [h, h, effectiveBits16_eq_dropLast (by rw [hlen]; omega), effectiveBits16_eq_dropLast (by rw [hlen]; omega),
      messageBits_dropLast_concat_eq hbb']

/-! ### The run on an empty inbox -/

section Left

variable {d : Nat} {c : Consts (d + 1)} {seed : Engine (d + 1) → Except OutOfRange (BitVec (d + 1))}
  (hc : IsEngine c seed) {e : Engine (d + 1)}
include hc

/-- The iteration with `I = 8n - 1` is the last one (R74, R94). -/
theorem iterate_succ_done (k : Nat) (h : e.Inv c) (hrun : e.ph = .run) (hk : e.i + (k + 1) = 8 * e.n) :
    ((iterate c)^[k + 1] e).ph = .done := by
  induction k generalizing e with
  | zero =>
    obtain ⟨-, hbound, -⟩ := h
    rw [Function.iterate_one, iterate_of_last c (subFetch_run_of_bound hc hbound hrun) (by omega)]
  | succ k ih =>
    obtain ⟨hrun', hi'⟩ := iterate_counts hc h hrun (by omega)
    rw [Function.iterate_succ_apply]
    exact ih (iterate_inv hc h) hrun' (by rw [hi', iterate_n]; omega)

/-- R116: before the iterations left are over an engine runs, and after them it is DONE. -/
theorem iterate_left (h : e.Inv c) (hrun : e.ph = .run) :
    (∀ j < 8 * e.n - e.i, ((iterate c)^[j] e).ph = .run) ∧ ((iterate c)^[8 * e.n - e.i] e).ph = .done := by
  have hi : e.i < 8 * e.n := by
    obtain ⟨-, -, hR, -⟩ := h
    obtain ⟨-, hi, -⟩ := hR hrun
    exact hi
  obtain ⟨k, hk⟩ : ∃ k, 8 * e.n - e.i = k + 1 := ⟨8 * e.n - e.i - 1, by omega⟩
  refine ⟨fun j hj => (iterate_iterate_counts hc j h hrun (by omega)).1, ?_⟩
  rw [hk]
  exact iterate_succ_done hc k h hrun (by omega)

end Left

/-- `k` steps that each apply the same function of the state. -/
theorem run_add_of_steps {f : State → State} (m k : Nat) :
    ∀ s : State, (∀ j < k, step (f^[j] s) = .next (f (f^[j] s))) →
      Host.Core.run Sys2Proof.core (k + m) s = Host.Core.run Sys2Proof.core m (f^[k] s) := by
  induction k with
  | zero => intro s _; rw [Nat.zero_add]; rfl
  | succ k ih =>
    intro s hstep
    rw [Nat.succ_add]
    exact (run_succ _ (hstep 0 k.succ_pos)).trans
      (ih (f s) fun j hj => hstep (j + 1) (Nat.succ_lt_succ hj))

theorem step_idle_crc7 {s : State} (hin : s.inbox = []) (hrun : s.crc7.ph = .run) : step s = .next (turned .crc7 s) := by
  rw [step_of_empty_inbox hin, idleTurn_of_crc7_run hrun, engineTurn_eq]

theorem step_idle_crc16 {s : State} (hin : s.inbox = []) (hrun : s.crc7.ph ≠ .run) :
    step s = .next (turned .crc16 s) := by
  rw [step_of_empty_inbox hin, idleTurn_of_crc7_not_run hrun, engineTurn_eq]

/-- Settles O52: the CRC7 engine takes the iterations it has left, then the CRC16 engine takes its own (log 6). -/
theorem runningEnginesReachDone : Obligations.RunningEnginesReachDone := by
  intro s ⟨h7, h16⟩ hin hrun7 hrun16
  obtain ⟨hruns7, hdone7⟩ := iterate_left isEngine_crc7 h7 hrun7
  obtain ⟨-, hdone16⟩ := iterate_left isEngine_crc16 h16 hrun16
  generalize 8 * s.crc7.n - s.crc7.i = k7 at *
  generalize 8 * s.crc16.n - s.crc16.i = k16 at *
  have hfirst := run_add_of_steps k16 k7 s fun j hj => step_idle_crc7 (by rw [iterate_turned_inbox, hin])
    (by rw [iterate_turned_crc7, hruns7 j hj])
  have hsecond := run_add_of_steps 0 k16 ((turned .crc7)^[k7] s) fun j _ => step_idle_crc16
    (by rw [iterate_turned_inbox, iterate_turned_inbox, hin])
    (by rw [iterate_turned_crc16_crc7, iterate_turned_crc7, hdone7]; decide)
  refine ⟨_, hfirst.trans hsecond, ?_, ?_⟩
  · rw [iterate_turned_crc16_crc7, iterate_turned_crc7, hdone7]
  · rw [iterate_turned_crc16, iterate_turned_crc7_crc16, hdone16]

end Sys2Proof.Proofs.CommonLaws
end

section
/-! PROOFS. The family 60_exceptions, first part: when START, FETCH and the functions raise OutOfRange, when a step
stops, and the engine outside RUN. -/

namespace Sys2Proof.Proofs.Exceptions

open Sys2Proof.Machine Sys2Proof.Laws Sys2Proof.Proofs.Iteration Sys2Proof.Proofs.EngineInvariant
  Sys2Proof.Proofs.ReadResult Sys2Proof.Proofs.EngineMoves Sys2Proof.Proofs.Frames Sys2Proof.Proofs.DecodedStep
  Sys2Proof.Proofs.RowResults Sys2Proof.Proofs.RoutineDivides Sys2Proof.Proofs.Crc16Rows

/-! ### OutOfRange -/

section OutOfRange

variable {d : Nat} {c : Consts (d + 1)} {seed : Engine (d + 1) → Except OutOfRange (BitVec (d + 1))}
  (hc : IsEngine c seed)
include hc

/-- R131, R147: START ends in FAULT below the minimum length and in RUN from it on. -/
theorem startEngine_ph_iff (msg : List Byte) (e : Engine (d + 1)) :
    ((startEngine seed msg e).ph = .fault ↔ msg.length < c.minBytes) ∧
      ((startEngine seed msg e).ph = .run ↔ c.minBytes ≤ msg.length) := by
  rcases Nat.lt_or_ge msg.length c.minBytes with hn | hn
  · rw [startEngine_of_lt hc msg e hn]
    simpa using hn
  · obtain ⟨hph, -⟩ := startEngine_of_le hc msg e hn
    simpa [hph] using hn

/-- R132: under the invariant FETCH with `F` reads a byte of the message, and the engine goes on running. -/
theorem fetch_in_range {e : Engine (d + 1)} (hinv : e.Inv c) (hrun : e.ph = .run) (hF : condF c e = true) :
    byteIndex c.s e.i < e.n ∧ (subFetch c e).ph = .run := by
  obtain ⟨-, hbound, -⟩ := hinv
  exact ⟨byteIndex_lt_of_condF hc.k_eq hF, subFetch_run_of_bound hc hbound hrun⟩

end OutOfRange

/-- Settles O17: an admitted command is START, which faults exactly below the minimum. -/
theorem commandsFaultExactlyOnShortMessages : Obligations.CommandsFaultExactlyOnShortMessages := by
  intro s t
  constructor
  · intro h
    rw [exec_crc7_next h]
    exact startEngine_ph_iff isEngine_crc7 s.operand s.crc7
  · intro h
    rw [exec_crc16_next h]
    exact startEngine_ph_iff isEngine_crc16 s.operand s.crc16

/-- Settles O40: the row is the sub-step, whose byte is in range under `F`. -/
theorem fetchCannotFaultOnceSeeded : Obligations.FetchCannotFaultOnceSeeded := by
  intro s ⟨h7, h16⟩
  constructor
  · intro hrun hF
    obtain ⟨hk, hph⟩ := fetch_in_range isEngine_crc7 h7 hrun hF
    exact ⟨hk, _, exec_crc7Fetch s, hph⟩
  · intro hrun hF
    obtain ⟨hk, hph⟩ := fetch_in_range isEngine_crc16 h16 hrun hF
    exact ⟨hk, _, exec_crc16Fetch s, hph⟩

/-- Settles O54: a message below the minimum raises at a read of the seed; any other gives the remainder of its long
division. -/
theorem functionsRaiseExactlyOnShortMessages : Obligations.FunctionsRaiseExactlyOnShortMessages := by
  intro msg
  refine ⟨⟨fun ⟨x, hx⟩ => ?_, crc7Function_of_lt⟩, ⟨fun ⟨x, hx⟩ => ?_, crc16Function_of_lt⟩⟩
  · by_contra hn
    cases (crc7Function_eq_longDivide (Nat.le_of_not_lt hn)).symm.trans hx
  · by_contra hn
    cases (crc16Function_eq_longDivide (Nat.le_of_not_lt hn)).symm.trans hx

/-! ### Where a step stops -/

/-- The command answers a next state exactly when it is admitted (R145, D8). -/
theorem exec_crc7_next_iff (s : State) :
    (∃ t, exec .crc7 s = .next t) ↔ s.crc7.ph ≠ .run ∧ admits s.cfg s.operand.length = true := by
  rcases exec_crc7_cases s with ⟨hrun, h⟩ | ⟨hph, hadm, h⟩ | ⟨hph, hadm, h⟩
  · simp [h, hrun]
  · simp [h, hadm]
  · simp [h, hph, hadm]

/-- The command answers a next state exactly when it is admitted (R145, D8). -/
theorem exec_crc16_next_iff (s : State) :
    (∃ t, exec .crc16 s = .next t) ↔ s.crc16.ph ≠ .run ∧ admits s.cfg s.operand.length = true := by
  rcases exec_crc16_cases s with ⟨hrun, h⟩ | ⟨hph, hadm, h⟩ | ⟨hph, hadm, h⟩
  · simp [h, hrun]
  · simp [h, hadm]
  · simp [h, hph, hadm]

/-- START answers a next state exactly when its command is admitted. -/
theorem hostStart_next_iff (op : BitVec 1) (msg : List Byte) (s : State) :
    (∃ t, hostStart op msg s = .next t) ↔ s.phase (engineOfOp op) ≠ .run ∧ admits s.cfg msg.length = true := by
  obtain rfl | rfl := BitVec.eq_zero_or_eq_one op
  · rw [hostStart_zero]
    exact exec_crc7_next_iff (presentOperand msg s)
  · rw [hostStart_one]
    exact exec_crc16_next_iff (presentOperand msg s)

/-- R19: reading a result answers a next state exactly in DONE. -/
theorem hostReadResult_next_iff (e : EngineId) (s : State) :
    (∃ t, hostReadResult e s = .next t) ↔ s.phase e = .done := by
  constructor
  · rintro ⟨t, ht⟩
    by_contra hd
    cases (hostReadResult_of_not_done hd).symm.trans ht
  · intro hd
    cases e with
    | crc7 => exact ⟨_, hostReadResult_crc7_of_done hd⟩
    | crc16 => exact ⟨_, hostReadResult_crc16_of_done hd⟩

theorem dutiful_start_iff {s : State} {op : BitVec 1} {msg : List Byte} {rest : List Event}
    (hin : s.inbox = .start op msg :: rest) :
    s.dutiful = true ↔ s.phase (engineOfOp op) ≠ .run ∧ admits s.cfg msg.length = true := by
  simp [State.dutiful, hin]

theorem dutiful_readResult_iff {s : State} {e : EngineId} {rest : List Event} (hin : s.inbox = .readResult e :: rest) :
    s.dutiful = true ↔ s.phase e = .done := by
  simp [State.dutiful, hin]

/-- Settles O43: by the oldest entry of the inbox; a poll, a reset and a turn always answer a next state. -/
theorem stepStopsOnlyOnAnUndutifulHost : Obligations.StepStopsOnlyOnAnUndutifulHost := by
  intro s
  rcases step_cases s with ⟨op, msg, rest, hin, hs⟩ | ⟨e, rest, hin, hs⟩ | ⟨e, rest, hin, hs⟩ | ⟨rest, hin, hs⟩ |
    ⟨e, rest, hin, hs⟩ | ⟨hin, hs⟩
  · rw [hs, dutiful_start_iff hin, hostStart_next_iff, phase_with_inbox]
  · simp [hs, State.dutiful, hin]
  · rw [hs, dutiful_readResult_iff hin, hostReadResult_next_iff, phase_with_inbox]
  · simp [hs, State.dutiful, hin]
  · simp [hs, engineTurn_eq, State.dutiful, hin]
  · obtain ⟨e, he⟩ := idleTurn_eq s
    simp [hs, he, State.dutiful, hin]

/-- D8: a message above a set `MAXBYTES` is not admitted. -/
theorem admits_of_gt {cfg : Config} {m n : Nat} (hmax : cfg.maxBytes = some m) (hn : m < n) : admits cfg n = false := by
  simpa [admits, hmax] using hn

/-- Settles O16: the two checks of each command, in their order. -/
theorem commandsAreRefusedInRunAndAboveMaxBytes : Obligations.CommandsAreRefusedInRunAndAboveMaxBytes := by
  refine fun s => ⟨fun hrun => if_pos hrun, fun hrun => if_pos hrun, fun m hmax hlen => ?_⟩
  have hadm : ¬admits s.cfg s.operand.length = true := Bool.eq_false_iff.1 (admits_of_gt hmax hlen)
  exact ⟨fun hph => (if_neg hph).trans (if_neg hadm), fun hph => (if_neg hph).trans (if_neg hadm)⟩

/-! ### The engine outside RUN -/

/-- Settles O25: each row is its sub-step, which leaves an engine outside RUN as it is. -/
theorem microOperationsOutsideRunDoNothing : Obligations.MicroOperationsOutsideRunDoNothing := by
  intro s
  simp only [List.forall_mem_cons, List.not_mem_nil, false_implies, implies_true, and_true]
  refine ⟨fun h => ⟨?_, ?_, ?_, ?_⟩, fun h => ⟨?_, ?_, ?_, ?_⟩⟩
  · rw [exec_crc7Fetch, subFetch_of_not_run _ h, putCrc7_self]
  · rw [exec_crc7Reduce, subReduce_of_not_run _ h, putCrc7_self]
  · rw [exec_crc7Stop, subStop_of_not_run h, putCrc7_self]
  · rw [exec_crc7Shift, subShift_of_not_run _ h, putCrc7_self]
  · rw [exec_crc16Fetch, subFetch_of_not_run _ h, putCrc16_self]
  · rw [exec_crc16Reduce, subReduce_of_not_run _ h, putCrc16_self]
  · rw [exec_crc16Stop, subStop_of_not_run h, putCrc16_self]
  · rw [exec_crc16Shift, subShift_of_not_run _ h, putCrc16_self]

end Sys2Proof.Proofs.Exceptions
end

section
/-! PROOFS. The family 60_exceptions, second part: turns of the two engines in any order. -/

namespace Sys2Proof.Proofs.Interleaving

open Sys2Proof.Machine Sys2Proof.Laws Sys2Proof.Proofs.Iteration Sys2Proof.Proofs.EngineMoves Sys2Proof.Proofs.Runs
  Sys2Proof.Proofs.MessageMemory Sys2Proof.Proofs.Functions

/-- The turns of the two engines write different parts of the state. -/
theorem turned_comm (s : State) : turned .crc16 (turned .crc7 s) = turned .crc7 (turned .crc16 s) := rfl

/-- Settles O29: in every phase a turn is an iteration of its own engine. -/
theorem engineTurnsCommute : Obligations.EngineTurnsCommute := by
  intro s
  refine ⟨turned .crc7 s, turned .crc16 s, turned .crc16 (turned .crc7 s), engineTurn_eq _ _, engineTurn_eq _ _,
    engineTurn_eq _ _, ?_⟩
  rw [turned_comm]
  exact engineTurn_eq _ _

/-- Turns and polls in the inbox, in any order: each engine has made as many iterations as it had turns. -/
theorem run_turnsAndPolls (rest : List Event) (evs : List Event) :
    ∀ s : State, (∀ ev ∈ evs, ev.turnOrPoll = true) → s.inbox = evs ++ rest →
      ∃ t, Host.Core.run Sys2Proof.core evs.length s = .next t ∧
        t.crc7 = (iterate crc7Const)^[evs.count (.turn .crc7)] s.crc7 ∧
        t.crc16 = (iterate crc16Const)^[evs.count (.turn .crc16)] s.crc16 := by
  induction evs with
  | nil => exact fun s _ _ => ⟨s, rfl, rfl, rfl⟩
  | cons ev evs ih =>
    intro s hall hin
    obtain ⟨hev, hall'⟩ := List.forall_mem_cons.1 hall
    have hin' : s.inbox = ev :: (evs ++ rest) := hin
    rw [List.length_cons]
    cases ev with
    | start op msg => cases hev
    | readResult e => cases hev
    | reset => cases hev
    | poll e =>
      rw [run_succ _ (step_of_inbox hin')]
      simpa using ih (hostPoll e { s with inbox := evs ++ rest }) hall' (hostPoll_inbox _ e)
    | turn e =>
      rw [run_succ _ (step_turn hin')]
      cases e with
      | crc7 => simpa [turned] using ih (turned .crc7 { s with inbox := evs ++ rest }) hall' rfl
      | crc16 => simpa [turned] using ih (turned .crc16 { s with inbox := evs ++ rest }) hall' rfl

/-- The same after one step more, which leaves them in the inbox. -/
theorem run_step_turnsAndPolls {s s' : State} {evs rest : List Event} (hall : ∀ ev ∈ evs, ev.turnOrPoll = true)
    (hstep : step s = .next s') (hin : s'.inbox = evs ++ rest) :
    ∃ t, Host.Core.run Sys2Proof.core (evs.length + 1) s = .next t ∧
      t.crc7 = (iterate crc7Const)^[evs.count (.turn .crc7)] s'.crc7 ∧
      t.crc16 = (iterate crc16Const)^[evs.count (.turn .crc16)] s'.crc16 := by
  rw [run_succ _ hstep]
  exact run_turnsAndPolls rest evs s' hall hin

/-- After START and at least `8n` iterations the engine is DONE with the remainder of the generic routine: those
beyond `8n` do nothing (R142). -/
theorem iterate_startEngine_of_le {w : Nat} {c : Consts w} {seed : Engine w → Except OutOfRange (BitVec w)}
    (hks : c.k = 8 * c.s) (hmask : c.mask = BitVec.allOnes w) {msg : List Byte} (e : Engine w) {v : BitVec w}
    (hv : seed (bindMessage msg e) = .ok v) (hn : 1 ≤ msg.length) {k : Nat} (hk : 8 * msg.length ≤ k) :
    ∃ r, genericCrc c (.ok v) msg = .ok r ∧ ((iterate c)^[k] (startEngine seed msg e)).ph = .done ∧
      ((iterate c)^[k] (startEngine seed msg e)).r = r := by
  obtain ⟨r, hr, hdone⟩ := iterate_startEngine_eq_genericCrc hks hmask e hv hn
  refine ⟨r, hr, ?_⟩
  rw [← Nat.sub_add_cancel hk, Function.iterate_add_apply, hdone,
    Function.iterate_fixed (iterate_of_not_run c (by simp))]
  exact ⟨rfl, rfl⟩

/-- START of the CRC7 engine and at least `8n` iterations give its function's remainder (R70). -/
theorem iterate_startEngine_crc7 {msg : List Byte} (e : Engine 8) (hn : 1 ≤ msg.length) {k : Nat}
    (hk : 8 * msg.length ≤ k) :
    ∃ r, crc7Function msg = .ok r ∧ ((iterate crc7Const)^[k] (startEngine seedValue7 msg e)).ph = .done ∧
      ((iterate crc7Const)^[k] (startEngine seedValue7 msg e)).r = r := by
  obtain ⟨b, bs, rfl⟩ : ∃ b bs, msg = b :: bs := List.exists_cons_of_length_pos hn
  rw [crc7Function_eq_genericCrc]
  exact iterate_startEngine_of_le (c := crc7Const) rfl rfl e (seedValue7_bindMessage e b bs) hn hk

/-- START of the CRC16 engine and at least `8n` iterations give its function's remainder (R90). -/
theorem iterate_startEngine_crc16 {msg : List Byte} (e : Engine 17) (hn : 3 ≤ msg.length) {k : Nat}
    (hk : 8 * msg.length ≤ k) :
    ∃ r, crc16Function msg = .ok r ∧ ((iterate crc16Const)^[k] (startEngine seedValue16 msg e)).ph = .done ∧
      ((iterate crc16Const)^[k] (startEngine seedValue16 msg e)).r = r := by
  match msg, hn with
  | b0 :: b1 :: b2 :: bs, hn =>
    rw [crc16Function_eq_genericCrc]
    exact iterate_startEngine_of_le (c := crc16Const) rfl rfl e (seedValue16_bindMessage e b0 b1 b2 bs) (by omega) hk

/-- Settles O51: START is one step, and of the turns and polls after it only the engine's own turns count. -/
theorem anyInterleavingGivesTheSameResult : Obligations.AnyInterleavingGivesTheSameResult := by
  intro s msg evs rest hadm hall
  constructor
  · intro hin hph hn hcount
    obtain ⟨r, hr, hdone, hrem⟩ := iterate_startEngine_crc7 s.crc7 hn hcount
    obtain ⟨t, hrun, h7, -⟩ := run_step_turnsAndPolls hall (step_start_crc7 hin hph hadm) rfl
    refine ⟨r, t, hr, hrun, ?_⟩
    rw [h7]
    exact ⟨hdone, hrem⟩
  · intro hin hph hn hcount
    obtain ⟨r, hr, hdone, hrem⟩ := iterate_startEngine_crc16 s.crc16 hn hcount
    obtain ⟨t, hrun, -, h16⟩ := run_step_turnsAndPolls hall (step_start_crc16 hin hph hadm) rfl
    refine ⟨r, t, hr, hrun, ?_⟩
    rw [h16]
    exact ⟨hdone, hrem⟩

end Sys2Proof.Proofs.Interleaving
end

section
/-! PROOFS. The family 70_reset_and_hazards: reset, what START keeps of the past, and the order of FETCH and REDUCE. -/

namespace Sys2Proof.Proofs.ResetAndHazards

open Sys2Proof.Machine Sys2Proof.Laws Sys2Proof.Proofs.Division Sys2Proof.Proofs.Iteration Sys2Proof.Proofs.Runs
  Sys2Proof.Proofs.Outputs Sys2Proof.Proofs.RowResults Sys2Proof.Proofs.Crc16Rows

/-! ### FETCH precedes REDUCE -/

section Order

variable {d : Nat} {c : Consts (d + 1)} {e : Engine (d + 1)} {b : BitVec 1}

/-- Into a clear `R[0]` FETCH puts the fetched bit (R72, R92). -/
theorem subFetch_getLsbD_zero (hrun : e.ph = .run) (hF : condF c e = true) (h0 : e.r.getLsbD 0 = false)
    (hb : extractBit c.s e e.i = .ok b) : (subFetch c e).r.getLsbD 0 = b.getLsbD 0 := by
  rw [subFetch_of_bit hrun hF hb, BitVec.getLsbD_or, BitVec.getLsbD_setWidth, h0]
  simp

variable (hc : IsDivisor c) (hconst : c.poly.getLsbD 0 = true)
include hc hconst

/-- A polynomial with constant term 1 flips `R[0]` in a REDUCE that subtracts it. -/
theorem reduced_getLsbD_zero {r : BitVec (d + 1)} (hr : r.getLsbD d = true) :
    (reduced c r).getLsbD 0 = !r.getLsbD 0 := by
  rw [reduced_eq hc, if_pos hr, BitVec.getLsbD_xor, hconst, Bool.xor_true]

/-- R155: an iteration with `F` and `X` shifts the fetched bit, flipped by the XOR, into `R[1]`. One with `F` is
never the last, and FETCH leaves the leading bit that `X` tests alone. -/
theorem iterate_getLsbD_one (hmask : c.mask = BitVec.allOnes (d + 1)) (hd : 0 < d) (hk : 0 < c.k) (hinv : e.Inv c)
    (hrun : e.ph = .run) (hF : condF c e = true) (hX : e.r.getLsbD d = true) (hb : extractBit c.s e e.i = .ok b) :
    (iterate c e).r.getLsbD 1 = !b.getLsbD 0 := by
  obtain ⟨hi, hlt⟩ := (condF_true_iff c e).1 hF
  obtain ⟨-, -, hR, -, -⟩ := hinv
  obtain ⟨-, -, hclear⟩ := hR hrun
  have hfetched : (subFetch c e).r.getLsbD 0 = b.getLsbD 0 := subFetch_getLsbD_zero hrun hF (hclear hi) hb
  have hlead : (subFetch c e).r.getLsbD d = true := (subFetch_getLsbD c e hd.ne').trans hX
  have hra : subFetch c e = { e with r := (subFetch c e).r } := by rw [subFetch_of_bit hrun hF hb]
  obtain ⟨-, hnotLast⟩ := iterate_of_fetched hmask hrun hra
  calc (iterate c e).r.getLsbD 1
      = (reduced c (subFetch c e).r <<< 1).getLsbD 1 := by rw [hnotLast (by omega)]
    _ = (reduced c (subFetch c e).r).getLsbD 0 := by simp [-BitVec.getLsbD_eq_getElem, BitVec.getLsbD_shiftLeft, hd]
    _ = !b.getLsbD 0 := by rw [reduced_getLsbD_zero hc hconst hlead, hfetched]

end Order

/-- Settles O35: the turn is an iteration, and both polynomials have the constant term 1. -/
theorem reduceFlipsTheFetchedBit : Obligations.ReduceFlipsTheFetchedBit := by
  intro s rest b ⟨h7, h16⟩
  constructor <;> intro hin hrun hF hX hb
  · exact ⟨_, step_turn_crc7 hin,
      iterate_getLsbD_one isDivisor_crc7 rfl rfl (by decide) (by decide) h7 hrun hF hX hb⟩
  · exact ⟨_, step_turn_crc16 hin,
      iterate_getLsbD_one isDivisor_crc16 rfl rfl (by decide) (by decide) h16 hrun hF hX hb⟩

/-! ### START forgets the past -/

/-- R144, R151: a seed that is the same for two engines bound to the message leads START to the same phase, and to the
same engine where it runs, for SEED writes `R`, `I` and `PH` there; on OutOfRange the old `R` and `I` stay. -/
theorem startEngine_forgets {w : Nat} {seed : Engine w → Except OutOfRange (BitVec w)} {msg : List Byte}
    {e e' : Engine w} (hseed : seed (bindMessage msg e) = seed (bindMessage msg e')) :
    (startEngine seed msg e).ph = (startEngine seed msg e').ph ∧
      ((startEngine seed msg e).ph = .run → startEngine seed msg e = startEngine seed msg e') := by
  rw [startEngine, startEngine, ← hseed]
  cases seed (bindMessage msg e) with
  | ok v => exact ⟨rfl, fun _ => rfl⟩
  | error x => exact ⟨rfl, fun hrun => nomatch hrun⟩

/-- The seed reads `N` and `MSG` only, which the binding overwrites. -/
theorem seedValue7_bindMessage_eq (msg : List Byte) (e e' : Engine 8) :
    seedValue7 (bindMessage msg e) = seedValue7 (bindMessage msg e') := rfl

/-- The seed reads `N` and `MSG` only, which the binding overwrites. -/
theorem seedValue16_bindMessage_eq (msg : List Byte) (e e' : Engine 17) :
    seedValue16 (bindMessage msg e) = seedValue16 (bindMessage msg e') := rfl

/-- Settles O46: both steps are the START of one engine, whose seed the message alone decides. -/
theorem startForgetsThePast : Obligations.StartForgetsThePast := by
  intro s s' op msg rest rest' hin hin' hcfg hph hph' hadm
  have hadm' : admits s'.cfg msg.length = true := hcfg ▸ hadm
  obtain rfl | rfl := BitVec.eq_zero_or_eq_one op
  · obtain ⟨hphase, heq⟩ := startEngine_forgets (seedValue7_bindMessage_eq msg s.crc7 s'.crc7)
    exact ⟨_, _, step_start_crc7 hin hph hadm, step_start_crc7 hin' hph' hadm', hphase,
      fun _ => heq, fun h => absurd h (by decide)⟩
  · obtain ⟨hphase, heq⟩ := startEngine_forgets (seedValue16_bindMessage_eq msg s.crc16 s'.crc16)
    exact ⟨_, _, step_start_crc16 hin hph hadm, step_start_crc16 hin' hph' hadm', hphase,
      fun h => absurd h (by decide), fun _ => heq⟩

/-! ### Reset -/

/-- Settles O7: reset puts both engines where the block's reset state has them, IDLE and without a result (R23). -/
theorem resetAbandonsWhateverRuns : Obligations.ResetAbandonsWhateverRuns := by
  intro s rest hin
  obtain ⟨⟨hidle7, hout7⟩, hidle16, hout16⟩ := resetIsIdleAndPresentsNoResult
  obtain ⟨hdone7, herr7, hcrc7, hrem7⟩ := hout7
  obtain ⟨hdone16, herr16, hcrc16, hrem16⟩ := hout16
  exact ⟨hostReset { s with inbox := rest }, step_of_inbox hin, hidle7, hidle16, hdone7, herr7, hcrc7, hrem7,
    hdone16, herr16, hcrc16, hrem16, hostReset_cfg _, hostReset_inbox _⟩

end Sys2Proof.Proofs.ResetAndHazards
end
